-- ==== Sys2Proof/Word.lean ====
section
/-! DEFINITION. The word types of the SUB183 decode core (R7, R9). -/

namespace Sys2Proof

/-- One byte of BBUF or of a bus word (R64). -/
abbrev Byte := BitVec 8

/-- "A 'word' is 32 bits" (R7): a command word, a bus word, a 32-bit register. -/
abbrev Word := BitVec 32

/-- The bit pattern of an IEEE 754 binary32 value (R9); `F(x)` of R10 is `x` itself here. -/
abbrev F32 := BitVec 32

end Sys2Proof
end

