-- ==== Sys2Proof/Syntax.lean ====
section
/-! DEFINITION. The 33 commands of the opcode map (R84), one constructor per row of the opcode table. -/

namespace Sys2Proof

/-- A command with its command-word fields (R81). An index field (table, group, channel, row, column,
angle, band of SF) has exactly its field's width, so every value names something. A count field
(`n`, `maxlen`, `nb`, the boundary index `b`) is an unsigned integer (R82); `WellFormed` bounds it to
its field's width. Operands in ARG0-ARG2 (R83) are state, not syntax. -/
inductive Instr where
  /-- NOP (R131) -/
  | nop
  /-- BR_INIT (R101) -/
  | brInit
  /-- BR_READ n (R102) -/
  | brRead (n : Nat)
  /-- BR_PEEK n (R103) -/
  | brPeek (n : Nat)
  /-- BR_SKIP n (R104) -/
  | brSkip (n : Nat)
  /-- BR_TELL (R105) -/
  | brTell
  /-- BR_VLC t (R106) -/
  | brVlc (t : BitVec 4)
  /-- VLC_BEGIN t, maxlen (R107) -/
  | vlcBegin (t : BitVec 4) (maxlen : Nat)
  /-- VLC_ADD t (R108) -/
  | vlcAdd (t : BitVec 4)
  /-- VLC_END t (R109) -/
  | vlcEnd (t : BitVec 4)
  /-- GRP_SET g (R160) -/
  | grpSet (g : BitVec 3)
  /-- MX_IDENT g (R161) -/
  | mxIdent (g : BitVec 3)
  /-- MX_MS45 g (R162) -/
  | mxMs45 (g : BitVec 3)
  /-- MX_WRITE g, i, j (R163) -/
  | mxWrite (g i j : BitVec 3)
  /-- MX_ANG g, k, a (R164) -/
  | mxAng (g : BitVec 3) (k : BitVec 5) (a : BitVec 6)
  /-- MX_SIGNS g, s (R165) -/
  | mxSigns (g : BitVec 3) (sg : BitVec 8)
  /-- MX_ROT g (R166) -/
  | mxRot (g : BitVec 3)
  /-- MX_APPLY g (R167) -/
  | mxApply (g : BitVec 3)
  /-- SUB_SET nb (R136) -/
  | subSet (nb : Nat)
  /-- SFB_SET b (R137) -/
  | sfbSet (b : Nat)
  /-- QS_SET (R138) -/
  | qsSet
  /-- CH_QSET c (R139) -/
  | chQset (c : BitVec 3)
  /-- SF_SET c, b (R140) -/
  | sfSet (c : BitVec 3) (b : BitVec 5)
  /-- COEF_CLR c (R141) -/
  | coefClr (c : BitVec 3)
  /-- DEQUANT c (R180) -/
  | dequant (c : BitVec 3)
  /-- IMDCT c (R190) -/
  | imdct (c : BitVec 3)
  /-- WINDOW c (R200) -/
  | window (c : BitVec 3)
  /-- PCM_ZERO c (R201) -/
  | pcmZero (c : BitVec 3)
  /-- PREV_SET c (R142) -/
  | prevSet (c : BitVec 3)
  /-- OUT_EMIT (R203) -/
  | outEmit
  /-- REMAP_SET (R133) -/
  | remapSet
  /-- ERR_CLR (R134) -/
  | errClr
  /-- CFG (R132) -/
  | cfg
deriving DecidableEq, Repr

end Sys2Proof
end

