-- ==== Sys2Proof/WellFormed.lean ====
section
/-! DEFINITION. The width check of a command's count fields: each must fit its field of the word (R81, R82). -/

namespace Sys2Proof

/-- Each count field fits its bits of the command word (R81): N6 and B have 6 bits, N20 has 20, TL's
maxlen has 6. The index fields fit by their types. A field inside its width but outside its LEGAL
range (R82) is well formed: the command then raises at run time. -/
def WellFormed : Instr → Bool
  | .brRead n => n < 2 ^ 6
  | .brPeek n => n < 2 ^ 6
  | .brSkip n => n < 2 ^ 20
  | .vlcBegin _ maxlen => maxlen < 2 ^ 6
  | .subSet nb => nb < 2 ^ 6
  | .sfbSet b => b < 2 ^ 6
  | .nop | .brInit | .brTell | .brVlc _ | .vlcAdd _ | .vlcEnd _ => true
  | .grpSet _ | .mxIdent _ | .mxMs45 _ | .mxWrite _ _ _ | .mxAng _ _ _ => true
  | .mxSigns _ _ | .mxRot _ | .mxApply _ => true
  | .qsSet | .chQset _ | .sfSet _ _ | .coefClr _ | .dequant _ | .imdct _ => true
  | .window _ | .pcmZero _ | .prevSet _ | .outEmit | .remapSet | .errClr | .cfg => true

end Sys2Proof
end

