-- ==== Sys2Proof/Decode.lean ====
section
/-! DEFINITION. Decoding and encoding of command words (R80-R86). Decoding is total on every 32-bit word. -/

namespace Sys2Proof

/-- The twelve command-word formats (R81). -/
inductive Format where
  | z | n6 | n20 | t | tl | g | gij | gka | gs | c | cb | b
deriving DecidableEq, Repr

/-- Why a word is no command: the first two checks of R85. -/
inductive DecodeError where
  /-- the opcode is not in the table: ILLEGAL_CMD with ERR_INFO 1 (R86) -/
  | undefinedOpcode
  /-- a bit the format does not name is 1: ILLEGAL_CMD with ERR_INFO 2 (R86) -/
  | reservedBits
deriving DecidableEq, Repr

/-- Bits [31:24], the opcode OPC (R80). -/
def opcodeOf (w : Word) : Nat := (w.extractLsb' 24 8).toNat

/-- The reserved bits of a format, which must be 0 (R81, column "Reserved bits"). -/
def reservedMask : Format → Word
  | .z => 0x00FFFFFF#32
  | .n6 => 0x00FFFFC0#32
  | .n20 => 0x00F00000#32
  | .t => 0x00FFFFF0#32
  | .tl => 0x00FFC0F0#32
  | .g => 0x00FFFFF8#32
  | .gij => 0x00FFF888#32
  | .gka => 0x00C0FE08#32
  | .gs => 0x00FF00F8#32
  | .c => 0x00FFFFF8#32
  | .cb => 0x00FFE0F8#32
  | .b => 0x00FFFFC0#32

/-- The opcode map (R84): the format of an opcode and the command it names, its fields extracted from
the word at the bits R81 gives them. `none` for an undefined opcode. -/
def commandOf (opc : Nat) (w : Word) : Option (Format × Instr) :=
  let g := w.extractLsb' 0 3
  let t := w.extractLsb' 0 4
  let n6 := (w.extractLsb' 0 6).toNat
  match opc with
  | 0x00 => some (.z, .nop)
  | 0x01 => some (.z, .brInit)
  | 0x02 => some (.n6, .brRead n6)
  | 0x03 => some (.n6, .brPeek n6)
  | 0x04 => some (.n20, .brSkip (w.extractLsb' 0 20).toNat)
  | 0x05 => some (.z, .brTell)
  | 0x06 => some (.t, .brVlc t)
  | 0x08 => some (.tl, .vlcBegin t (w.extractLsb' 8 6).toNat)
  | 0x09 => some (.t, .vlcAdd t)
  | 0x0A => some (.t, .vlcEnd t)
  | 0x10 => some (.g, .grpSet g)
  | 0x11 => some (.g, .mxIdent g)
  | 0x12 => some (.g, .mxMs45 g)
  | 0x13 => some (.gij, .mxWrite g (w.extractLsb' 4 3) (w.extractLsb' 8 3))
  | 0x14 => some (.gka, .mxAng g (w.extractLsb' 4 5) (w.extractLsb' 16 6))
  | 0x15 => some (.gs, .mxSigns g (w.extractLsb' 8 8))
  | 0x16 => some (.g, .mxRot g)
  | 0x17 => some (.g, .mxApply g)
  | 0x20 => some (.b, .subSet n6)
  | 0x21 => some (.b, .sfbSet n6)
  | 0x22 => some (.z, .qsSet)
  | 0x23 => some (.c, .chQset g)
  | 0x24 => some (.cb, .sfSet g (w.extractLsb' 8 5))
  | 0x25 => some (.c, .coefClr g)
  | 0x26 => some (.c, .dequant g)
  | 0x27 => some (.c, .imdct g)
  | 0x28 => some (.c, .window g)
  | 0x29 => some (.c, .pcmZero g)
  | 0x2A => some (.c, .prevSet g)
  | 0x30 => some (.z, .outEmit)
  | 0x3C => some (.z, .remapSet)
  | 0x3D => some (.z, .errClr)
  | 0x3F => some (.z, .cfg)
  | _ => none

/-- The decoder (R85): the undefined-opcode check, then the reserved-bits check, then the fields. The
third check of R85, NOT_READY(1), depends on the state and is `Machine.runConfigured`'s. -/
def decode (w : Word) : Except DecodeError Instr :=
  match commandOf (opcodeOf w) w with
  | none => .error .undefinedOpcode
  | some (f, i) => if w &&& reservedMask f = 0#32 then .ok i else .error .reservedBits

/-- The instruction the decoder reads from a table row's word. A command is one 32-bit bus word (R80),
so `nbits` is 32 and the word is given as it stands; bits above `nbits` are 0. -/
def decodeTableWord (nbits w : Nat) : Option Instr :=
  match decode (BitVec.ofNat 32 (w % 2 ^ nbits)) with
  | .ok i => some i
  | .error _ => none

/-- The opcode of a command (R84). -/
def opcode : Instr → Nat
  | .nop => 0x00
  | .brInit => 0x01
  | .brRead _ => 0x02
  | .brPeek _ => 0x03
  | .brSkip _ => 0x04
  | .brTell => 0x05
  | .brVlc _ => 0x06
  | .vlcBegin _ _ => 0x08
  | .vlcAdd _ => 0x09
  | .vlcEnd _ => 0x0A
  | .grpSet _ => 0x10
  | .mxIdent _ => 0x11
  | .mxMs45 _ => 0x12
  | .mxWrite _ _ _ => 0x13
  | .mxAng _ _ _ => 0x14
  | .mxSigns _ _ => 0x15
  | .mxRot _ => 0x16
  | .mxApply _ => 0x17
  | .subSet _ => 0x20
  | .sfbSet _ => 0x21
  | .qsSet => 0x22
  | .chQset _ => 0x23
  | .sfSet _ _ => 0x24
  | .coefClr _ => 0x25
  | .dequant _ => 0x26
  | .imdct _ => 0x27
  | .window _ => 0x28
  | .pcmZero _ => 0x29
  | .prevSet _ => 0x2A
  | .outEmit => 0x30
  | .remapSet => 0x3C
  | .errClr => 0x3D
  | .cfg => 0x3F

/-- The field bits [23:0] of a command, each field at its bits of R81, every other bit 0. -/
def fieldBits : Instr → Word
  | .brRead n | .brPeek n | .subSet n | .sfbSet n => (BitVec.ofNat 6 n).setWidth 32
  | .brSkip n => (BitVec.ofNat 20 n).setWidth 32
  | .brVlc t | .vlcAdd t | .vlcEnd t => t.setWidth 32
  | .vlcBegin t maxlen => t.setWidth 32 ||| (BitVec.ofNat 6 maxlen).setWidth 32 <<< 8
  | .grpSet g | .mxIdent g | .mxMs45 g | .mxRot g | .mxApply g => g.setWidth 32
  | .mxWrite g i j => g.setWidth 32 ||| i.setWidth 32 <<< 4 ||| j.setWidth 32 <<< 8
  | .mxAng g k a => g.setWidth 32 ||| k.setWidth 32 <<< 4 ||| a.setWidth 32 <<< 16
  | .mxSigns g sg => g.setWidth 32 ||| sg.setWidth 32 <<< 8
  | .chQset c | .coefClr c | .dequant c | .imdct c | .window c | .pcmZero c | .prevSet c =>
    c.setWidth 32
  | .sfSet c b => c.setWidth 32 ||| b.setWidth 32 <<< 8
  | .nop | .brInit | .brTell | .qsSet | .outEmit | .remapSet | .errClr | .cfg => 0#32

/-- The encoder: OPC in bits [31:24] and the fields below it (R80, R81). -/
def encode (i : Instr) : Word := BitVec.ofNat 32 (opcode i) <<< 24 ||| fieldBits i

end Sys2Proof
end

