-- ==== Sys2Proof/Config.lean ====
section
/-! DEFINITION. The core's fixed parameters (R6) and its one open function, `IMDCT_N` (R12). -/

namespace Sys2Proof

/-- `MAX_CH` (R6). -/
@[simp] abbrev Config.maxCh : Nat := 8
/-- `MIN_BLOCK` (R6). -/
@[simp] abbrev Config.minBlock : Nat := 128
/-- `MAX_BLOCK` (R6). -/
@[simp] abbrev Config.maxBlock : Nat := 4096
/-- `SPF_MAX` (R6). -/
@[simp] abbrev Config.spfMax : Nat := 4096
/-- `PCM_WORDS` (R6): 3·SPF_MAX/2 words per channel. -/
@[simp] abbrev Config.pcmWords : Nat := 6144
/-- `MAX_BANDS` (R6). -/
@[simp] abbrev Config.maxBands : Nat := 32
/-- `BBUF_BYTES` (R6). -/
@[simp] abbrev Config.bbufBytes : Nat := 65536
/-- `BBUF_BITS` (R6). -/
@[simp] abbrev Config.bbufBits : Nat := 524288
/-- `VLC_MAX_ENTRIES` (R6). -/
@[simp] abbrev Config.vlcMaxEntries : Nat := 512
/-- `VLC_MAX_LEN` (R6). -/
@[simp] abbrev Config.vlcMaxLen : Nat := 32
/-- `MAX_READ` (R6). -/
@[simp] abbrev Config.maxRead : Nat := 32

/-- The OPEN function `IMDCT_N` (R12, D7, M1): `Config.imdctRaw N X m` is output sample `m` of the
inverse transform of size `N` on the inputs `X`. It has no body here: nothing can be proved about its
values. That it is a function of `N` and the inputs gives P1 and P3; P2 is imposed where it is used
(`Machine.imdctSample`). Assumption log 3. -/
opaque Config.imdctRaw : Nat → List F32 → Nat → F32

end Sys2Proof
end

