-- ==== Sys2Proof/Machine/State.lean ====
section
/-! DEFINITION. The core's architectural state (R20-R46), its reset value (R250, R251), the host's pending
accesses (R13, R14) and the reasons a step can stop (R236). -/

namespace Sys2Proof.Machine

/-- Why a step stops with a fault: the broken-model and overlapping cases of R236. No state that a run
reaches has one of them. Every command error of R220 is an architectural outcome, never a fault. -/
inductive Fault where
  /-- Raised by `step` on a state whose STATUS.BUSY is 1 between two steps (R236 (a), M6). A step is a
  whole BUSY interval, so no step leaves BUSY = 1. Safe: the model stops. -/
  | busyBetweenSteps
  /-- Raised by `step` when STATUS.ERR holds a reserved code 7-15 (R236 (b), M7). Safe: the model stops. -/
  | reservedErrorCode
  /-- Raised by `step` when some VLC_STATUS.STATE is 3, which never occurs (R38, M8). Safe: the model
  stops. -/
  | reservedVlcState
deriving DecidableEq, Repr

/-- Why an instruction has no meaning. R236: "A model refuses nothing the core can be given". -/
inductive Refusal where
  /-- The form `exec` gives an instruction without a meaning; no arm uses it. Safe: the model stops. -/
  | notModelled (mnemonic : String)
deriving DecidableEq, Repr

/-- An access at the core's boundary (R13, R14). An address is an offset from `CORE_BASE`, which is an
open platform parameter (M3); bits [1:0] and the bits above bit 19 are not decoded (R62). -/
inductive HostEvent where
  /-- `MemRead(addr, 4)` (R62) -/
  | read (addr : Word)
  /-- `MemWrite(addr, 4, value)` (R62); a write to CMD issues a command (R25) -/
  | write (addr value : Word)
  /-- the platform asserts the core's reset input (R250) -/
  | powerOnReset
deriving DecidableEq, Repr

/-- One pending event of the host program. `early` says that the host does not wait: if the event
before it started a BUSY interval (a command or a reset), this one falls inside that interval (R256).
With no interval running the flag has no effect. DESIGN CHOICE, safe: assumption logs 1 and 2. -/
structure HostOp where
  early : Bool
  event : HostEvent
deriving DecidableEq, Repr

/-- One entry of the VLC entry RAM (R39). -/
structure VlcEntry where
  code : Word
  len : BitVec 6
  sym : BitVec 16
deriving DecidableEq, Repr

/-- The reset value of a VLC entry, (0, 0, 0) (R39). -/
def VlcEntry.zero : VlcEntry := { code := 0, len := 0, sym := 0 }

/-- The fields of VLC_STATUS[t] (R38). `state`: 0 INVALID, 1 BUILDING, 2 VALID; 3 never occurs. -/
structure VlcStatus where
  state : BitVec 2
  maxlen : BitVec 6
  count : BitVec 10
deriving DecidableEq, Repr

/-- The registers of one channel (R32) and its band scale factors SF[c] (R34). -/
structure Channel where
  prevLen : BitVec 13
  qmod : BitVec 16
  sfstep : BitVec 8
  maxsf : BitVec 16
  sf : Vector (BitVec 16) 32
deriving DecidableEq, Repr

/-- A decorrelation matrix MAT[g]: rows of binary32 bit patterns (R37). -/
abbrev Matrix := Vector (Vector F32 8) 8

/-- The registers of one channel group (R35), its angle codes ANG[g] (R36) and its matrix (R37).
`size` and `offscale` are the fields of GRP_CFG. -/
structure Group where
  ch : Word
  size : BitVec 4
  offscale : Bool
  mask : Word
  sgn : BitVec 8
  ang : Vector (BitVec 6) 28
  mat : Matrix
deriving DecidableEq, Repr

/-- The data RAMs BBUF, COEF, PCM and OUT (R40-R43) as bytes at their bus offsets (R61), little-endian
(R64). A byte that is not listed reads 0, its reset value (R251). Assumption log 10. -/
abbrev Memory := List Host.Cell

/-- The core's state (R20-R46). The last two fields are the model's own: what the host will do next
and what it has read. -/
structure State where
  /-- STATUS.BUSY (R24) -/
  busy : Bool
  /-- STATUS.DONE (R24) -/
  done : Bool
  /-- STATUS.HAZ (R24) -/
  haz : Bool
  /-- STATUS.ERR (R24, R220) -/
  err : BitVec 4
  /-- STATUS.CONFIGURED (R24) -/
  configured : Bool
  /-- CTRL.IE_DONE (R23) -/
  ieDone : Bool
  /-- CTRL.IE_ERR (R23) -/
  ieErr : Bool
  /-- LASTCMD, what a read of CMD returns (R25) -/
  lastCmd : Word
  /-- ARG0 (R26) -/
  arg0 : Word
  /-- ARG1 (R26) -/
  arg1 : Word
  /-- ARG2 (R26) -/
  arg2 : Word
  /-- RES0 (R27) -/
  res0 : Word
  /-- RES1 (R27) -/
  res1 : Word
  /-- ERR_CMD (R28) -/
  errCmd : Word
  /-- ERR_INFO (R28) -/
  errInfo : Word
  /-- BR_START (R29) -/
  brStart : BitVec 20
  /-- BR_LEN (R29) -/
  brLen : BitVec 20
  /-- BR_POS (R29) -/
  brPos : BitVec 20
  /-- CFG_NCH (R30) -/
  cfgNch : BitVec 4
  /-- CFG_SPF (R30) -/
  cfgSpf : BitVec 13
  /-- CFG_MAXSUB (R30) -/
  cfgMaxsub : BitVec 6
  /-- REMAP6 (R30) -/
  remap6 : BitVec 24
  /-- SUB_N (R31) -/
  subN : BitVec 13
  /-- SUB_OFF (R31) -/
  subOff : BitVec 13
  /-- SUB_NB.NB (R31) -/
  subNb : BitVec 6
  /-- SUB_NB.VALID (R31) -/
  subValid : Bool
  /-- QSTEP (R31) -/
  qstep : BitVec 16
  /-- the per-channel registers (R32) and SF (R34) -/
  chan : Vector Channel 8
  /-- SFB[0..32] (R33) -/
  sfb : Vector (BitVec 13) 33
  /-- the group registers (R35), ANG (R36) and MAT (R37) -/
  grp : Vector Group 8
  /-- VLC_STATUS[0..15] (R38) -/
  vlc : Vector VlcStatus 16
  /-- the VLC entry RAM (R39), hidden: entry e of table t under the key 512·t + e; an unlisted entry is
  `VlcEntry.zero` -/
  vlcRam : List (Nat × VlcEntry)
  /-- BBUF, COEF, PCM and OUT (R40-R43) -/
  mem : Memory
  /-- the MODEL's field: the host's accesses still to come, in program order (R13, R68). DESIGN CHOICE, safe:
  assumption log 1 -/
  host : List HostOp
  /-- the MODEL's field: the (address, value) pairs the host has read, newest first (R15). DESIGN CHOICE, safe:
  assumption log 6 -/
  reads : List (Word × Word)
deriving DecidableEq, Repr

/-- The registers of a channel after reset: all 0 (R251). -/
def Channel.reset : Channel :=
  { prevLen := 0, qmod := 0, sfstep := 0, maxsf := 0, sf := Vector.replicate 32 0 }

/-- The all +0.0 matrix (R251). -/
def Matrix.zero : Matrix := Vector.replicate 8 (Vector.replicate 8 0)

/-- The registers of a group after reset: all 0, the group not set (R251). -/
def Group.reset : Group :=
  { ch := 0, size := 0, offscale := false, mask := 0, sgn := 0, ang := Vector.replicate 28 0,
    mat := Matrix.zero }

/-- A VLC table after reset: INVALID, MAXLEN 0, COUNT 0 (R251). -/
def VlcStatus.reset : VlcStatus := { state := 0, maxlen := 0, count := 0 }

/-- The core right after reset (R250, R251): "Every item of state has a defined reset value" (R46). No
host access is pending and none has been made. -/
def State.reset : State where
  busy := false
  done := false
  haz := false
  err := 0
  configured := false
  ieDone := false
  ieErr := false
  lastCmd := 0
  arg0 := 0
  arg1 := 0
  arg2 := 0
  res0 := 0
  res1 := 0
  errCmd := 0
  errInfo := 0
  brStart := 0
  brLen := 0
  brPos := 0
  cfgNch := 0
  cfgSpf := 0
  cfgMaxsub := 0
  remap6 := 0x543210#24
  subN := 0
  subOff := 0
  subNb := 0
  subValid := false
  qstep := 0
  chan := Vector.replicate 8 Channel.reset
  sfb := Vector.replicate 33 0
  grp := Vector.replicate 8 Group.reset
  vlc := Vector.replicate 16 VlcStatus.reset
  vlcRam := []
  mem := []
  host := []
  reads := []

end Sys2Proof.Machine
end

