-- ==== Sys2Proof/Machine/Flags.lean ====
section
/-! DEFINITION. STATUS and CTRL as the host sees them (R23, R24), the write-1-to-clear bits, the flag changes at
a command's issue and completion (R24, R25), and the interrupt line (R227). -/

namespace Sys2Proof.Machine

/-- A flag at bit `k` of a 32-bit register. -/
def flagAt (b : Bool) (k : Nat) : Word := (BitVec.ofBool b).setWidth 32 <<< k

/-- STATUS as read (R24): BUSY 0, DONE 1, HAZ 2, ERR 7:4, CONFIGURED 8; the other bits read 0. -/
def State.statusWord (s : State) : Word :=
  flagAt s.busy 0 ||| flagAt s.done 1 ||| flagAt s.haz 2 ||| s.err.setWidth 32 <<< 4 |||
    flagAt s.configured 8

/-- CTRL as read (R23): IE_DONE 1, IE_ERR 2; SRST and the reserved bits read 0. -/
def State.ctrlWord (s : State) : Word := flagAt s.ieDone 1 ||| flagAt s.ieErr 2

/-- A host write of STATUS (R24, R63): DONE and HAZ are cleared where the value has a 1; writes to the other
bits are ignored. -/
def State.writeStatus (s : State) (v : Word) : State :=
  { s with done := s.done && !v.getLsbD 1, haz := s.haz && !v.getLsbD 2 }

/-- A host write of CTRL's interrupt enables (R23). -/
def State.writeEnables (s : State) (v : Word) : State :=
  { s with ieDone := v.getLsbD 1, ieErr := v.getLsbD 2 }

/-- The issue of a command word (R25): LASTCMD ← the word, BUSY ← 1, DONE ← 0. -/
def State.issue (s : State) (w : Word) : State := { s with lastCmd := w, busy := true, done := false }

/-- The completion of a command, failed and dropped ones included (R24): BUSY ← 0, DONE ← 1. -/
def State.complete (s : State) : State := { s with busy := false, done := true }

/-- The interrupt output IRQ at a step boundary (R227). Assumption log 13. -/
def State.irq (s : State) : Bool := (s.done && s.ieDone) || ((s.err != 0 || s.haz) && s.ieErr)

end Sys2Proof.Machine
end

