-- ==== Sys2Proof/Machine/Operands.lean ====
section
/-! DEFINITION. The operand forms of R83 (scalar and packed ARG values), number-range checks (R7, R130) and the
byte order of words (R64). -/

namespace Sys2Proof.Machine

/-- `pow2(x)` (R7): x = 2^k for some k ≥ 0. -/
def isPow2 (x : Nat) : Bool := 2 ^ x.log2 == x

/-- `int16(x)` (R130): the ARG value, read as two's complement, is in −32768..32767. -/
def isInt16 (x : Word) : Bool := -32768 ≤ x.toInt && x.toInt ≤ 32767

/-- Bits [15:0] of an ARG value: the stored form of a signed 16-bit operand (R138-R140). -/
def low16 (x : Word) : BitVec 16 := x.extractLsb' 0 16

/-- `sext16(f)` (R130): a 16-bit register field as a two's-complement integer. -/
def sext16 (f : BitVec 16) : Int := f.toInt

/-- Nibble k of a packed word: bits [4k+3:4k] (R30, R35, R83). -/
def nibble (x : Word) (k : Nat) : Nat := x.toNat / 16 ^ k % 16

/-- LEN of VLC_ADD: ARG1[5:0] (R108). -/
def argLen (arg1 : Word) : BitVec 6 := arg1.extractLsb' 0 6

/-- SYM of VLC_ADD: ARG1[31:16] (R108). -/
def argSym (arg1 : Word) : BitVec 16 := arg1.extractLsb' 16 16

/-- SIZE of GRP_SET: ARG1[3:0] (R160). -/
def argSize (arg1 : Word) : BitVec 4 := arg1.extractLsb' 0 4

/-- OFFSCALE of GRP_SET: ARG1[8] (R160). -/
def argOffscale (arg1 : Word) : Bool := arg1.getLsbD 8

/-- The member channels of GRP_SET: nibbles 0..n−1 of ARG0 (R160). -/
def argMembers (arg0 : Word) (n : Nat) : List Nat := (List.range n).map (nibble arg0)

/-- The four bytes of a word, lowest address first: little-endian (R64). -/
def wordBytes (w : Word) : List Byte :=
  [w.extractLsb' 0 8, w.extractLsb' 8 8, w.extractLsb' 16 8, w.extractLsb' 24 8]

/-- The word of four bytes, lowest address first: little-endian (R64). -/
def bytesWord (b0 b1 b2 b3 : Byte) : Word := b3 ++ b2 ++ b1 ++ b0

/-- The two bytes of a 16-bit sample, lowest address first (R43, R64). -/
def sampleBytes (x : BitVec 16) : List Byte := [x.extractLsb' 0 8, x.extractLsb' 8 8]

end Sys2Proof.Machine
end

