-- ==== Sys2Proof/Machine/Store.lean ====
section
/-! DEFINITION. Sparse stores: lists of (key, value) pairs in one canonical form. The data RAMs and the
VLC entry RAM are held this way. -/

namespace Sys2Proof.Machine

/-- The value at a key; an unlisted key reads the default `d`. -/
def storeGet {α : Type} (d : α) : List (Nat × α) → Nat → α
  | [], _ => d
  | (a, v) :: rest, k => if a = k then v else storeGet d rest k

/-- The entries that hold the values `vs` at the keys `a, a+1, …`; a value equal to the default is
not listed. -/
def storeCells {α : Type} [DecidableEq α] (d : α) : Nat → List α → List (Nat × α)
  | _, [] => []
  | a, v :: vs => if v = d then storeCells d (a + 1) vs else (a, v) :: storeCells d (a + 1) vs

/-- Writes the values `vs` at the keys `a, a+1, …` and leaves every other key alone. -/
def storeWrite {α : Type} [DecidableEq α] (d : α) (m : List (Nat × α)) (a : Nat) (vs : List α) :
    List (Nat × α) :=
  m.filter (fun c => c.1 < a) ++ storeCells d a vs ++ m.filter (fun c => a + vs.length ≤ c.1)

/-- Sets the `n` keys from `a` on to the default. -/
def storeErase {α : Type} (m : List (Nat × α)) (a n : Nat) : List (Nat × α) :=
  m.filter (fun c => c.1 < a) ++ m.filter (fun c => a + n ≤ c.1)

/-- The canonical form: keys strictly rising, no entry equal to the default. -/
def storeWf {α : Type} [DecidableEq α] (d : α) : List (Nat × α) → Bool
  | [] => true
  | (a, v) :: rest => v ≠ d && rest.all (fun c => a < c.1) && storeWf d rest

/-- The canonical form of the data RAMs: addresses strictly rising, no zero byte listed. -/
def Memory.wf (m : Memory) : Bool := storeWf 0#8 m

end Sys2Proof.Machine
end

