-- ==== Sys2Proof/Machine/Ops.lean ====
section
/-! DEFINITION. The operations the commands share: the data RAMs (R40-R43), the registers of a channel, a group
and a VLC table, the error latch (R220-R226), the frame every command runs in (R222-R224), and the common
checks (R130, R135, R159). -/

namespace Sys2Proof.Machine

/-! Data RAMs, at their bus offsets (R61). -/

/-- One byte of the data RAMs. -/
def readByte (m : Memory) (a : Nat) : Byte := storeGet 0#8 m a

/-- One little-endian word of the data RAMs (R64). -/
def readWord (m : Memory) (a : Nat) : Word :=
  bytesWord (readByte m a) (readByte m (a + 1)) (readByte m (a + 2)) (readByte m (a + 3))

/-- Writes consecutive bytes. -/
def writeBytes (m : Memory) (a : Nat) (bs : List Byte) : Memory := storeWrite 0#8 m a bs

/-- Writes consecutive words, each little-endian (R64). -/
def writeWords (m : Memory) (a : Nat) (ws : List Word) : Memory := writeBytes m a (ws.flatMap wordBytes)

/-- Sets `n` bytes to 0, which is +0.0 for a binary32 element. -/
def eraseBytes (m : Memory) (a n : Nat) : Memory := storeErase m a n

/-- The bus offset of BBUF[a] (R61). -/
def bbufAddr (a : Nat) : Nat := 0x10000 + a

/-- The bus offset of COEF[c][i] (R41). -/
def coefAddr (c i : Nat) : Nat := 0x20000 + 0x4000 * c + 4 * i

/-- The bus offset of PCM[c][i] (R42). -/
def pcmAddr (c i : Nat) : Nat := 0x40000 + 0x8000 * c + 4 * i

/-- The bus offset of OUT[k] (R43). -/
def outAddr (k : Nat) : Nat := 0x80000 + 2 * k

/-- COEF[c][i] (R41). -/
def coef (m : Memory) (c i : Nat) : F32 := readWord m (coefAddr c i)

/-- PCM[c][i] (R42). -/
def pcm (m : Memory) (c i : Nat) : F32 := readWord m (pcmAddr c i)

/-- OUT[k] (R43). -/
def out (m : Memory) (k : Nat) : BitVec 16 := readByte m (outAddr k + 1) ++ readByte m (outAddr k)

/-- Replaces COEF[c][y] by `f COEF[c][y]` for every y in lo..hi−1. -/
def mapCoef (m : Memory) (c lo hi : Nat) (f : F32 → F32) : Memory :=
  writeWords m (coefAddr c lo) ((List.range' lo (hi - lo)).map (fun y => f (coef m c y)))

/-! Registers of a channel, a group and a VLC table. -/

/-- The registers of channel c (R32, R34). -/
def State.channel (s : State) (c : BitVec 3) : Channel := s.chan[c.toNat]'(by have := c.isLt; omega)

/-- Replaces the registers of channel c. -/
def State.setChannel (s : State) (c : BitVec 3) (r : Channel) : State :=
  { s with chan := s.chan.set c.toNat r (by have := c.isLt; omega) }

/-- The registers of group g (R35-R37). -/
def State.group (s : State) (g : BitVec 3) : Group := s.grp[g.toNat]'(by have := g.isLt; omega)

/-- Replaces the registers of group g. -/
def State.setGroup (s : State) (g : BitVec 3) (r : Group) : State :=
  { s with grp := s.grp.set g.toNat r (by have := g.isLt; omega) }

/-- VLC_STATUS[t] (R38). -/
def State.table (s : State) (t : BitVec 4) : VlcStatus := s.vlc[t.toNat]'(by have := t.isLt; omega)

/-- Replaces VLC_STATUS[t]. -/
def State.setTable (s : State) (t : BitVec 4) (r : VlcStatus) : State :=
  { s with vlc := s.vlc.set t.toNat r (by have := t.isLt; omega) }

/-- The key of VLC[t][e] in the entry RAM. -/
def vlcKey (t : BitVec 4) (e : Nat) : Nat := Config.vlcMaxEntries * t.toNat + e

/-- VLC[t][e] (R39). -/
def State.vlcEntry (s : State) (t : BitVec 4) (e : Nat) : VlcEntry :=
  storeGet VlcEntry.zero s.vlcRam (vlcKey t e)

/-- The entries e < COUNT[t] of table t, the only ones with a meaning (R39). -/
def State.vlcEntries (s : State) (t : BitVec 4) : List VlcEntry :=
  (List.range (s.table t).count.toNat).map (s.vlcEntry t)

/-- Boundary SFB[b] (R33). -/
def State.bound (s : State) (b : Nat) : Nat := (s.sfb.getD b 0).toNat

/-! The error latch: error entry and return (R220-R226). -/

/-- What a command can raise: one constructor per row of R221. -/
inductive CmdError where
  /-- the cursor stands at `pos` and the data does not suffice -/
  | outOfData (pos : BitVec 20)
  /-- no code matches at `pos` -/
  | vlcNoMatch (pos : BitVec 20)
  /-- subframe length out of bounds, or subframe past the frame end -/
  | subframeBounds
  /-- band count out of range, or band boundaries invalid -/
  | bandBounds
  /-- negative effective quant step -/
  | negativeStep
  /-- undefined opcode -/
  | undefinedOpcode
  /-- a reserved bit of the format is 1 -/
  | reservedBits
  /-- a field or ARG operand out of its legal range -/
  | operandRange
  /-- table t is in the wrong state for the command -/
  | tableState (t : BitVec 4)
  /-- bad entry, or table t is full -/
  | tableEntry (t : BitVec 4)
  /-- table t is empty or not prefix-free -/
  | tableCodes (t : BitVec 4)
  /-- the command needs CFG -/
  | notConfigured
  /-- the command needs a valid subframe -/
  | noSubframe
  /-- the command names a group that is not set -/
  | noGroup
deriving DecidableEq, Repr

/-- The error code written to STATUS.ERR (R220). -/
def errorCode : CmdError → BitVec 4
  | .outOfData _ => 1
  | .vlcNoMatch _ => 2
  | .subframeBounds | .bandBounds | .negativeStep => 3
  | .undefinedOpcode | .reservedBits | .operandRange => 4
  | .tableState _ | .tableEntry _ | .tableCodes _ => 5
  | .notConfigured | .noSubframe | .noGroup => 6

/-- The value written to ERR_INFO (R221). -/
def errorInfo : CmdError → Word
  | .outOfData pos | .vlcNoMatch pos => pos.setWidth 32
  | .subframeBounds | .undefinedOpcode | .notConfigured => 1
  | .bandBounds | .reservedBits | .noSubframe => 2
  | .negativeStep | .operandRange | .noGroup => 3
  | .tableState t => 0x100#32 ||| t.setWidth 32
  | .tableEntry t => 0x200#32 ||| t.setWidth 32
  | .tableCodes t => 0x300#32 ||| t.setWidth 32

/-- Error entry (R224, R225): STATUS.ERR, ERR_CMD and ERR_INFO are written and nothing else changes. The
command word is LASTCMD, which the issue has just set (R25). No program counter, mode or mask exists to be
saved or switched. -/
def State.raise (s : State) (e : CmdError) : State :=
  { s with err := errorCode e, errCmd := s.lastCmd, errInfo := errorInfo e }

/-- Error return (R134, R226): the latch is cleared. Nothing else needs restoring. -/
def State.clearError (s : State) : State := { s with err := 0, errCmd := 0, errInfo := 0 }

/-- The end of a command that passed the error lock: its effects are committed, or its error is latched and
it has no other effect (R8, R224); then it completes. -/
def State.finish (s : State) : Except CmdError State → State
  | .ok t => t.complete
  | .error e => (s.raise e).complete

/-- Every command but ERR_CLR: while STATUS.ERR ≠ 0 it is dropped and only completes (R223). -/
def run (s : State) (result : Except CmdError State) : Host.Outcome State Fault Refusal :=
  if s.err ≠ 0 then .next s.complete else .next (s.finish result)

/-- A command that needs CFG (R84, R85): before CFG it raises NOT_READY(1). -/
def runConfigured (s : State) (result : Except CmdError State) : Host.Outcome State Fault Refusal :=
  run s (if s.configured then result else .error .notConfigured)

/-- A word that is no command (R85, R86): ILLEGAL_CMD(1) or ILLEGAL_CMD(2), unless the lock drops it (R222). -/
def runIllegal (s : State) (e : DecodeError) : Host.Outcome State Fault Refusal :=
  run s (.error (match e with | .undefinedOpcode => .undefinedOpcode | .reservedBits => .reservedBits))

/-! Common checks. -/

/-- `chk_c(c)` (R130) holds: the channel exists. -/
def State.hasChannel (s : State) (c : BitVec 3) : Bool := c.toNat < s.cfgNch.toNat

/-- `sfb_ok()` (R135). -/
def State.sfbOk (s : State) : Bool :=
  s.bound 0 = 0 && (List.range s.subNb.toNat).all (fun b => s.bound b ≤ s.bound (b + 1)) &&
    s.bound s.subNb.toNat ≤ s.subN.toNat

/-- `size(g)` (R159); 0 means "group not set". -/
def Group.count (r : Group) : Nat := r.size.toNat

/-- `member(g,k)` (R159), a channel index. -/
def Group.member (r : Group) (k : Nat) : Nat := nibble r.ch k

/-! Matrices (R37, R159). -/

/-- M[i][j]. -/
def matGet (m : Matrix) (i j : Nat) : F32 := (m.getD i (Vector.replicate 8 0)).getD j 0

/-- M with M[i][j] replaced. -/
def matSet (m : Matrix) (i j : Nat) (x : F32) : Matrix :=
  m.setIfInBounds i ((m.getD i (Vector.replicate 8 0)).setIfInBounds j x)

/-- The 8×8 matrix with `d i` at [i][i] for i < n and +0.0 elsewhere. -/
def diagonal (n : Nat) (d : Nat → F32) : Matrix :=
  Vector.ofFn fun i => Vector.ofFn fun j => if i = j ∧ i.val < n then d i.val else 0

/-- `ident(n)` (R159). -/
def identity (n : Nat) : Matrix := diagonal n (fun _ => 0x3F800000#32)

/-! Reset (R250, R251). -/

/-- A power-on or soft reset: "every register … ← its reset value", every RAM ← zero. The host's program and
what it has read are the host's and stay. -/
def State.resetCore (s : State) : State := { State.reset with host := s.host, reads := s.reads }

end Sys2Proof.Machine
end

