-- ==== Sys2Proof/Machine/Bus.lean ====
section
/-! DEFINITION. The host bus (R60-R64, R256): the register map, reads and writes while BUSY = 0, and what an access
inside a BUSY interval does. -/

namespace Sys2Proof.Machine

/-- The word offset an address reaches: bits [1:0] are ignored and bits above 19 not decoded (R62). -/
def busOffset (addr : Word) : Nat := addr.toNat % 0x100000 / 4 * 4

/-- ID (R22): "S183", constant. -/
def idValue : Word := 0x53313833#32

/-- The offset of CTRL (R23). -/
def ctrlOffset : Nat := 0x004

/-- The offset of STATUS (R24). -/
def statusOffset : Nat := 0x008

/-- The offset of CMD (R25). -/
def cmdOffset : Nat := 0x00C

/-- A read of the registers at 0x000-0x0FF (R22-R31); an unlisted offset reads 0. -/
def State.readControl (s : State) (off : Nat) : Word :=
  match off with
  | 0x000 => idValue
  | 0x004 => s.ctrlWord
  | 0x008 => s.statusWord
  | 0x00C => s.lastCmd
  | 0x010 => s.arg0
  | 0x014 => s.arg1
  | 0x018 => s.arg2
  | 0x020 => s.res0
  | 0x024 => s.res1
  | 0x028 => s.errCmd
  | 0x02C => s.errInfo
  | 0x030 => s.brStart.setWidth 32
  | 0x034 => s.brLen.setWidth 32
  | 0x038 => s.brPos.setWidth 32
  | 0x040 => s.cfgNch.setWidth 32
  | 0x044 => s.cfgSpf.setWidth 32
  | 0x048 => s.cfgMaxsub.setWidth 32
  | 0x04C => s.remap6.setWidth 32
  | 0x050 => s.subN.setWidth 32
  | 0x054 => s.subOff.setWidth 32
  | 0x058 => s.subNb.setWidth 32 ||| flagAt s.subValid 31
  | 0x05C => s.qstep.signExtend 32
  | _ => 0

/-- A read of a channel's block of registers (R32): QMOD and MAXSF read sign-extended. -/
def Channel.readReg (r : Channel) (off : Nat) : Word :=
  match off with
  | 0x00 => r.prevLen.setWidth 32
  | 0x04 => r.qmod.signExtend 32
  | 0x08 => r.sfstep.setWidth 32
  | 0x0C => r.maxsf.signExtend 32
  | _ => 0

/-- A read of a group's block of registers (R35). -/
def Group.readReg (r : Group) (off : Nat) : Word :=
  match off with
  | 0x00 => r.ch
  | 0x04 => r.size.setWidth 32 ||| flagAt r.offscale 8
  | 0x08 => r.mask
  | 0x0C => r.sgn.setWidth 32
  | _ => 0

/-- VLC_STATUS as read (R38): STATE 1:0, MAXLEN 13:8, COUNT 25:16. -/
def VlcStatus.word (r : VlcStatus) : Word :=
  r.state.setWidth 32 ||| r.maxlen.setWidth 32 <<< 8 ||| r.count.setWidth 32 <<< 16

/-- A host read while BUSY = 0 (R61): the whole map. An unmapped or reserved offset reads 0. -/
def State.busRead (s : State) (off : Nat) : Word :=
  if off < 0x100 then s.readControl off
  else if off < 0x200 then (s.channel (BitVec.ofNat 3 (off / 0x20))).readReg (off % 0x20)
  else if off < 0x300 then (s.sfb.getD ((off - 0x200) / 4) 0).setWidth 32
  else if off < 0x400 then (s.group (BitVec.ofNat 3 (off / 0x20))).readReg (off % 0x20)
  else if off < 0x800 then
    ((s.channel (BitVec.ofNat 3 (off / 0x80))).sf.getD (off % 0x80 / 4) 0).signExtend 32
  else if off < 0xC00 then
    ((s.group (BitVec.ofNat 3 (off / 0x80))).ang.getD (off % 0x80 / 4) 0).setWidth 32
  else if off < 0x1000 then 0
  else if off < 0x1800 then
    matGet (s.group (BitVec.ofNat 3 (off / 0x100))).mat (off % 0x100 / 0x20) (off % 0x20 / 4)
  else if off < 0x2000 then 0
  else if off < 0x2040 then (s.table (BitVec.ofNat 4 (off / 4))).word
  else if off < 0x10000 then 0
  else if off < 0x40000 then readWord s.mem off
  else if off < 0x80000 then (if off % 0x8000 < 4 * Config.pcmWords then readWord s.mem off else 0)
  else if off < 0x90000 then readWord s.mem off
  else 0

/-- An offset of a RAM window the host may write (R61): BBUF, COEF, and the 6144 words of each PCM channel. -/
def ramWritable (off : Nat) : Bool :=
  (0x10000 ≤ off && off < 0x40000) ||
    (0x40000 ≤ off && off < 0x80000 && off % 0x8000 < 4 * Config.pcmWords)

/-- A host write while BUSY = 0 that neither issues a command nor starts a reset (R61-R63): CTRL's enables,
STATUS's write-1-to-clear bits, ARG0-ARG2 and the writable RAM windows. Every other write is ignored. -/
def State.busWrite (s : State) (off : Nat) (v : Word) : State :=
  if off = ctrlOffset then s.writeEnables v
  else if off = statusOffset then s.writeStatus v
  else if off = 0x010 then { s with arg0 := v }
  else if off = 0x014 then { s with arg1 := v }
  else if off = 0x018 then { s with arg2 := v }
  else if ramWritable off then { s with mem := writeWords s.mem off [v] }
  else s

/-- The host has read `v` at `addr` (R15). -/
def State.logRead (s : State) (addr v : Word) : State := { s with reads := (addr, v) :: s.reads }

/-- What keeps BUSY = 1 (R256). -/
inductive Interval where
  /-- a command is in progress -/
  | command
  /-- the reset clearing is in progress -/
  | clearing
deriving DecidableEq, Repr

/-- A dropped access sets STATUS.HAZ during a command, not during the reset clearing (R256). -/
def State.drop (s : State) : Interval → State
  | .command => { s with haz := true }
  | .clearing => s

/-- The start of a reset: every item has its reset value and BUSY is 1 for the clearing interval (R250). DESIGN CHOICE,
unsafe: that STATUS's DONE, HAZ, ERR and CONFIGURED read 0 already inside the interval, where R24 and R251 give 0 once
it ends, is the model's: assumption log 18. -/
def State.startReset (s : State) : State := { s.resetCore with busy := true }

/-- One host event inside a BUSY interval (R256): STATUS and ID are read, CTRL and STATUS are written as usual,
a reset aborts whatever runs, and every other access is dropped. DESIGN CHOICE: assumption log 2; the enables
written during the clearing are kept and those written with SRST are lost, DEDUCED, unsafe: logs 4 and 5. -/
def State.busyEvent (s : State) (iv : Interval) : HostEvent → Interval × State
  | .powerOnReset => (.clearing, s.startReset)
  | .write addr v =>
    if busOffset addr = ctrlOffset then
      (if v.getLsbD 0 then (.clearing, s.startReset) else (iv, s.writeEnables v))
    else if busOffset addr = statusOffset then (iv, s.writeStatus v)
    else (iv, s.drop iv)
  | .read addr =>
    if busOffset addr = statusOffset then (iv, s.logRead addr s.statusWord)
    else if busOffset addr = 0x000 then (iv, s.logRead addr idValue)
    else (iv, (s.drop iv).logRead addr 0)

/-- The events the host makes inside the running BUSY interval: the leading `early` ones. Answers what keeps
BUSY = 1 at their end, and the state, in which the later events are still pending. -/
def State.overlap : List HostOp → Interval → State → Interval × State
  | [], iv, s => (iv, { s with host := [] })
  | op :: rest, iv, s =>
    if op.early then
      let r := s.busyEvent iv op.event
      State.overlap rest r.1 r.2
    else (iv, { s with host := op :: rest })

/-- A reset with the host's events during its clearing interval (R250, R256); BUSY is 0 at its end. -/
def State.resetWith (s : State) (rest : List HostOp) : State :=
  { (State.overlap rest .clearing s.startReset).2 with busy := false }

end Sys2Proof.Machine
end

