-- ==== Sys2Proof/Machine/BitReader.lean ====
section
/-! DEFINITION. The bit reader and VLC decoder: BR_INIT, BR_READ, BR_PEEK, BR_SKIP, BR_TELL, BR_VLC, VLC_BEGIN,
VLC_ADD, VLC_END (R100-R109). None needs CFG. -/

namespace Sys2Proof.Machine

/-- `bit(p)` (R100): window bit p, the most significant bit of a byte first. -/
def State.windowBit (s : State) (p : Nat) : Bool :=
  let a := s.brStart.toNat + p
  (readByte s.mem (bbufAddr (a / 8))).getLsbD (7 - a % 8)

/-- `bits(p, n)` (R100): the first bit read is the most significant. -/
def State.windowBits (s : State) (p : Nat) : Nat → Nat
  | 0 => 0
  | n + 1 => 2 * s.windowBits p n + (s.windowBit (p + n)).toNat

/-- BR_INIT (R101). S + L is computed without wrap. -/
def execBrInit (s : State) : Host.Outcome State Fault Refusal :=
  run s (
    if s.arg0.toNat > Config.bbufBits || s.arg0.toNat + s.arg1.toNat > Config.bbufBits then
      .error .operandRange
    else .ok { s with brStart := s.arg0.setWidth 20, brLen := s.arg1.setWidth 20, brPos := 0 })

/-- BR_READ n (R102). -/
def execBrRead (n : Nat) (s : State) : Host.Outcome State Fault Refusal :=
  run s (
    if n > Config.maxRead then .error .operandRange
    else if s.brPos.toNat + n > s.brLen.toNat then .error (.outOfData s.brPos)
    else .ok { s with
      res0 := BitVec.ofNat 32 (s.windowBits s.brPos.toNat n)
      brPos := s.brPos + BitVec.ofNat 20 n })

/-- BR_PEEK n (R103): as BR_READ, without moving the cursor. -/
def execBrPeek (n : Nat) (s : State) : Host.Outcome State Fault Refusal :=
  run s (
    if n > Config.maxRead then .error .operandRange
    else if s.brPos.toNat + n > s.brLen.toNat then .error (.outOfData s.brPos)
    else .ok { s with res0 := BitVec.ofNat 32 (s.windowBits s.brPos.toNat n) })

/-- BR_SKIP n (R104). -/
def execBrSkip (n : Nat) (s : State) : Host.Outcome State Fault Refusal :=
  run s (
    if s.brPos.toNat + n > s.brLen.toNat then .error (.outOfData s.brPos)
    else .ok { s with brPos := s.brPos + BitVec.ofNat 20 n })

/-- BR_TELL (R105). -/
def execBrTell (s : State) : Host.Outcome State Fault Refusal :=
  run s (.ok { s with res0 := s.brPos.setWidth 32 })

/-- The first entry of the list whose length is `l` and whose code is `v`. -/
def findCode (es : List VlcEntry) (l v : Nat) : Option VlcEntry :=
  es.find? (fun e => e.len.toNat == l && e.code.toNat == v)

/-- The match of BR_VLC (R106): over the lengths 1..limit, shortest first, the entry whose code is the next
`l` bits. An entry's own LEN is its `l`. -/
def State.vlcMatch (s : State) (es : List VlcEntry) (limit : Nat) : Option VlcEntry :=
  (List.range' 1 limit).findSome? (fun l => findCode es l (s.windowBits s.brPos.toNat l))

/-- BR_VLC t (R106). M is MAXLEN and r the number of bits left. -/
def execBrVlc (t : BitVec 4) (s : State) : Host.Outcome State Fault Refusal :=
  let maxlen := (s.table t).maxlen.toNat
  let left := s.brLen.toNat - s.brPos.toNat
  run s (
    if (s.table t).state ≠ 2 then .error (.tableState t)
    else match s.vlcMatch (s.vlcEntries t) (min maxlen left) with
      | some e => .ok { s with
          res0 := e.sym.setWidth 32
          res1 := e.len.setWidth 32
          brPos := s.brPos + e.len.setWidth 20 }
      | none => if left < maxlen then .error (.outOfData s.brPos) else .error (.vlcNoMatch s.brPos))

/-- VLC_BEGIN t, maxlen (R107): legal in any table state. Old entries stay in the RAM. -/
def execVlcBegin (t : BitVec 4) (maxlen : Nat) (s : State) : Host.Outcome State Fault Refusal :=
  run s (
    if maxlen < 1 || maxlen > Config.vlcMaxLen then .error .operandRange
    else .ok (s.setTable t { state := 1, maxlen := BitVec.ofNat 6 maxlen, count := 0 }))

/-- VLC_ADD t (R108): appends (CODE, LEN, SYM) from ARG0 and ARG1. -/
def execVlcAdd (t : BitVec 4) (s : State) : Host.Outcome State Fault Refusal :=
  let st := s.table t
  let len := argLen s.arg1
  run s (
    if st.state ≠ 1 then .error (.tableState t)
    else if len.toNat < 1 || len.toNat > st.maxlen.toNat || s.arg0.toNat ≥ 2 ^ len.toNat ||
        st.count.toNat = Config.vlcMaxEntries then .error (.tableEntry t)
    else .ok { s.setTable t { st with count := st.count + 1 } with
      vlcRam := storeWrite VlcEntry.zero s.vlcRam (vlcKey t st.count.toNat)
        [{ code := s.arg0, len := len, sym := argSym s.arg1 }] })

/-- The code of `e` is a prefix of the code of `f`, or they are equal (R109); `e` is not the longer. -/
def isPrefix (e f : VlcEntry) : Bool :=
  e.len.toNat ≤ f.len.toNat && f.code.toNat / 2 ^ (f.len.toNat - e.len.toNat) == e.code.toNat

/-- `prefix_free` (R109): of no two entries is one code a prefix of the other. -/
def prefixFree : List VlcEntry → Bool
  | [] => true
  | e :: rest => rest.all (fun f => !isPrefix e f && !isPrefix f e) && prefixFree rest

/-- VLC_END t (R109). -/
def execVlcEnd (t : BitVec 4) (s : State) : Host.Outcome State Fault Refusal :=
  let st := s.table t
  run s (
    if st.state ≠ 1 then .error (.tableState t)
    else if st.count.toNat = 0 || !prefixFree (s.vlcEntries t) then .error (.tableCodes t)
    else .ok (s.setTable t { st with state := 2 }))

end Sys2Proof.Machine
end

