-- ==== Sys2Proof/Machine/Context.lean ====
section
/-! DEFINITION. Control, stream configuration and subframe context: NOP, CFG, REMAP_SET, ERR_CLR, SUB_SET,
SFB_SET, QS_SET, CH_QSET, SF_SET, COEF_CLR, PREV_SET (R131-R142). -/

namespace Sys2Proof.Machine

/-- NOP (R131): only STATUS.DONE is set. -/
def execNop (s : State) : Host.Outcome State Fault Refusal := run s (.ok s)

/-- COEF, PCM and OUT cleared (R132): every COEF word, the 6144 words of each PCM channel, every OUT word. -/
def clearDataRams (m : Memory) : Memory :=
  let m := eraseBytes m (coefAddr 0 0) 0x20000
  let m := (List.range Config.maxCh).foldl (fun m c => eraseBytes m (pcmAddr c 0) (4 * Config.pcmWords)) m
  eraseBytes m (outAddr 0) 0x10000

/-- The effect of a CFG that passes its checks (R132): the configuration is stored and all per-stream state
is cleared. -/
def State.configure (s : State) (nch spf maxsub : Nat) : State :=
  { s with
    cfgNch := BitVec.ofNat 4 nch
    cfgSpf := BitVec.ofNat 13 spf
    cfgMaxsub := BitVec.ofNat 6 maxsub
    configured := true
    chan := Vector.replicate 8 { Channel.reset with prevLen := BitVec.ofNat 13 spf }
    grp := Vector.replicate 8 Group.reset
    sfb := Vector.replicate 33 0
    subN := 0
    subOff := 0
    subNb := 0
    subValid := false
    qstep := 0
    mem := clearDataRams s.mem }

/-- CFG (R132). -/
def execCfg (s : State) : Host.Outcome State Fault Refusal :=
  let nch := s.arg0.toNat
  let spf := s.arg1.toNat
  let maxsub := s.arg2.toNat
  run s (
    if nch < 1 || nch > Config.maxCh then .error .operandRange
    else if !isPow2 spf || spf < Config.minBlock || spf > Config.spfMax then .error .operandRange
    else if !isPow2 maxsub || spf / maxsub < Config.minBlock then .error .operandRange
    else .ok (s.configure nch spf maxsub))

/-- The six nibbles of ARG0 are a permutation of 0..5 (R133). -/
def isRemap (x : Word) : Bool :=
  (List.range 6).all (fun k => ((List.range 6).map (nibble x)).contains k)

/-- REMAP_SET (R133). -/
def execRemapSet (s : State) : Host.Outcome State Fault Refusal :=
  run s (
    if !isRemap s.arg0 then .error .operandRange
    else .ok { s with remap6 := s.arg0.extractLsb' 0 24 })

/-- ERR_CLR (R134): the error return, executed even while the lock holds (R223). -/
def execErrClr (s : State) : Host.Outcome State Fault Refusal := .next s.clearError.complete

/-- SUB_SET nb (R136). OFF + N is computed without wrap. -/
def execSubSet (nb : Nat) (s : State) : Host.Outcome State Fault Refusal :=
  let n := s.arg0.toNat
  let off := s.arg1.toNat
  let spf := s.cfgSpf.toNat
  runConfigured s (
    if nb < 1 || nb > Config.maxBands then .error .bandBounds
    else if !isPow2 n || n < spf / s.cfgMaxsub.toNat || n > spf then .error .subframeBounds
    else if off + n > spf then .error .subframeBounds
    else .ok { s with
      subN := BitVec.ofNat 13 n
      subOff := BitVec.ofNat 13 off
      subNb := BitVec.ofNat 6 nb
      subValid := true })

/-- SFB_SET b (R137). It needs no valid subframe. -/
def execSfbSet (b : Nat) (s : State) : Host.Outcome State Fault Refusal :=
  runConfigured s (
    if b > Config.maxBands || s.arg0.toNat > Config.maxBlock then .error .operandRange
    else .ok { s with sfb := s.sfb.setIfInBounds b (s.arg0.setWidth 13) })

/-- QS_SET (R138). A negative value is stored. -/
def execQsSet (s : State) : Host.Outcome State Fault Refusal :=
  runConfigured s (
    if !isInt16 s.arg0 then .error .operandRange else .ok { s with qstep := low16 s.arg0 })

/-- CH_QSET c (R139). -/
def execChQset (c : BitVec 3) (s : State) : Host.Outcome State Fault Refusal :=
  runConfigured s (
    if !s.hasChannel c then .error .operandRange
    else if !isInt16 s.arg0 || s.arg1.toNat > 255 || !isInt16 s.arg2 then .error .operandRange
    else .ok (s.setChannel c { s.channel c with
      qmod := low16 s.arg0
      sfstep := s.arg1.setWidth 8
      maxsf := low16 s.arg2 }))

/-- SF_SET c, b (R140). -/
def execSfSet (c : BitVec 3) (b : BitVec 5) (s : State) : Host.Outcome State Fault Refusal :=
  runConfigured s (
    if !s.hasChannel c then .error .operandRange
    else if !isInt16 s.arg0 then .error .operandRange
    else .ok (s.setChannel c { s.channel c with
      sf := (s.channel c).sf.setIfInBounds b.toNat (low16 s.arg0) }))

/-- COEF_CLR c (R141): all 4096 entries. -/
def execCoefClr (c : BitVec 3) (s : State) : Host.Outcome State Fault Refusal :=
  runConfigured s (
    if !s.hasChannel c then .error .operandRange
    else .ok { s with mem := eraseBytes s.mem (coefAddr c.toNat 0) (4 * Config.maxBlock) })

/-- PREV_SET c (R142). -/
def execPrevSet (c : BitVec 3) (s : State) : Host.Outcome State Fault Refusal :=
  let len := s.arg0.toNat
  runConfigured s (
    if !s.hasChannel c then .error .operandRange
    else if !isPow2 len || len < Config.minBlock || len > s.cfgSpf.toNat then .error .operandRange
    else .ok (s.setChannel c { s.channel c with prevLen := BitVec.ofNat 13 len }))

end Sys2Proof.Machine
end

