-- ==== Sys2Proof/Machine/Float.lean ====
section
/-! DEFINITION. IEEE 754 binary32 arithmetic on bit patterns (R9, R10) and the rounding to 16-bit samples
(R202). A finite value is an integer number of units of 2^-149, so sums are exact integers, products
exact integers of units of 2^-298, and each operation rounds once. -/

namespace Sys2Proof.Machine

/-- The canonical quiet NaN (R10). -/
def qNaN : F32 := 0x7FC00000#32

/-- The bit pattern of +infinity. -/
def infBits : Nat := 0x7F800000

/-- The exponent field of a binary32. -/
def expField (x : F32) : Nat := (x.extractLsb' 23 8).toNat

/-- The fraction field of a binary32. -/
def fracField (x : F32) : Nat := (x.extractLsb' 0 23).toNat

/-- The sign bit of a binary32: true for negative. -/
def signBit (x : F32) : Bool := x.getLsbD 31

/-- A NaN: exponent field all ones, fraction not 0. -/
def isNaN (x : F32) : Bool := expField x = 255 && fracField x ≠ 0

/-- An infinity of either sign. -/
def isInf (x : F32) : Bool := expField x = 255 && fracField x = 0

/-- The magnitude of a finite binary32 in units of 2^-149. Subnormals are kept (R10). -/
def mag (x : F32) : Nat :=
  if expField x = 0 then fracField x else (2 ^ 23 + fracField x) * 2 ^ (expField x - 1)

/-- The exact value of a finite binary32 in units of 2^-149. -/
def toUnits (x : F32) : Int := if signBit x then -(mag x : Int) else (mag x : Int)

/-- The binary32 with the given sign and the given lower 31 bits. -/
def withSign (neg : Bool) (low : Nat) : F32 :=
  BitVec.ofNat 32 ((if neg then 0x80000000 else 0) + low)

/-- `n / 2^d` rounded to an integer, ties to even. -/
def roundShift (n d : Nat) : Nat :=
  let q := n / 2 ^ d
  let r := n % 2 ^ d
  if 2 ^ d < 2 * r || (2 * r = 2 ^ d && q % 2 = 1) then q + 1 else q

/-- The number of binary digits of `n`; 0 for 0. -/
def bitLength (n : Nat) : Nat := if n = 0 then 0 else n.log2 + 1

/-- RNE32 (R11) of the nonnegative real `n · 2^-(149+k)`, as the lower 31 bits of a binary32: rounded to 24
significant bits or to a multiple of 2^-149, whichever is coarser, ties to even; an overflow is
infinity. -/
def roundMag (n k : Nat) : Nat :=
  let d := max k (bitLength n - 24)
  min infBits ((d - k) * 2 ^ 23 + roundShift n d)

/-- `fneg` (R10): flips the sign bit, of a NaN too. -/
def fneg (x : F32) : F32 := x ^^^ 0x80000000#32

/-- `fmul` (R10): round(a × b). A NaN result is canonical; infinity times zero is NaN. -/
def fmul (a b : F32) : F32 :=
  let neg := signBit a != signBit b
  if isNaN a || isNaN b then qNaN
  else if isInf a then (if isInf b || mag b ≠ 0 then withSign neg infBits else qNaN)
  else if isInf b then (if mag a ≠ 0 then withSign neg infBits else qNaN)
  else withSign neg (roundMag (mag a * mag b) 149)

/-- `fadd` (R10): round(a + b). An exact zero sum is +0 unless both operands are −0; infinities of opposite
signs give NaN. -/
def fadd (a b : F32) : F32 :=
  if isNaN a || isNaN b then qNaN
  else if isInf a then (if isInf b && signBit a != signBit b then qNaN else a)
  else if isInf b then b
  else
    let v := toUnits a + toUnits b
    if v = 0 then withSign (signBit a && signBit b) 0
    else withSign (v < 0) (roundMag v.natAbs 0)

/-- `fsub` (R10): round(a − b). -/
def fsub (a b : F32) : F32 := fadd a (fneg b)

/-- A zero of either sign. -/
def isZero (x : F32) : Bool := x.extractLsb' 0 31 = 0#31

/-- The integer nearest to a finite binary32, ties to even. -/
def nearestInt (x : F32) : Int :=
  if signBit x then -(roundShift (mag x) 149 : Int) else (roundShift (mag x) 149 : Int)

/-- `clip16` (R202): NaN gives 0; otherwise the value is rounded to an integer, ties to even, and saturated
to −32768..32767. -/
def clip16 (x : F32) : BitVec 16 :=
  if isNaN x then 0#16
  else if isInf x then (if signBit x then 0x8000#16 else 0x7FFF#16)
  else if 32767 < nearestInt x then 0x7FFF#16
  else if nearestInt x < -32768 then 0x8000#16
  else BitVec.ofInt 16 (nearestInt x)

end Sys2Proof.Machine
end

