-- ==== Sys2Proof/Machine/Tables.lean ====
section
/-! DEFINITION. The fixed numeric functions of R11 and the open transform of R12. Each value is computed by
exact integer arithmetic and rounded once. -/

namespace Sys2Proof.Machine

/-- +1.0. -/
def one32 : F32 := 0x3F800000#32

/-- −1.0. -/
def minusOne32 : F32 := 0xBF800000#32

/-- `C45` = 0.70703125 = 181/256 (R11). -/
def c45 : F32 := 0x3F350000#32

/-- `OFFSCALE_K` = 1.4140625 = 181/128 (R11). -/
def offscaleK : F32 := 0x3FB50000#32

/-- The largest `y` with `y^k ≤ t` among the `y` that agree with `x` above the low `b` bits: the bits of
the integer `k`-th root, found from the highest down. -/
def rootBits (k t : Nat) : Nat → Nat → Nat
  | 0, x => x
  | b + 1, x => if (x + 2 ^ b) ^ k ≤ t then rootBits k t b (x + 2 ^ b) else rootBits k t b x

/-- `10^(e/20)` in units of 2^-150, rounded down: the integer 20th root of `10^e · 2^3000`. -/
def gainUnits (e : Int) : Nat :=
  rootBits 20 (10 ^ e.toNat * 2 ^ 3000 / 10 ^ (-e).toNat) 300 0

/-- `GAIN(e)` = RNE32(10^(e/20)) (R11). The root is carried with one digit more and a sticky digit that
says whether it is exact, so the one rounding is correct. Outside −904 < e < 771 the value is +infinity
or +0.0 (R180, corner cases). DEDUCED: assumption log 9. -/
def gain (e : Int) : F32 :=
  if 771 ≤ e then withSign false infBits
  else if e ≤ -904 then withSign false 0
  else
    let n := gainUnits e
    let sticky := if n ^ 20 * 10 ^ (-e).toNat = 10 ^ e.toNat * 2 ^ 3000 then 0 else 1
    withSign false (roundMag (2 * n + sticky) 2)

/-- π in units of 2^-160, rounded down. -/
def piUnits : Nat := 0x3243f6a8885a308d313198a2e03707344a4093822

/-- The alternating tail of the sine series from the term `t` of degree `k` on, in units of 2^-160:
`t − t·x²/((k+1)(k+2)) + …`, each term rounded down. -/
def sineTail (x : Nat) : Nat → Nat → Nat → Nat
  | 0, _, _ => 0
  | f + 1, k, t => t - sineTail x f (k + 2) (t * x * x / 2 ^ 320 / ((k + 1) * (k + 2)))

/-- `sin(num·π/den)` for `0 ≤ num/den ≤ 1/2`, in units of 2^-160. -/
def sineUnits (num den : Nat) : Nat :=
  let x := num * piUnits / den
  sineTail x 24 1 x

/-- RNE32(sin(num·π/den)) for `0 ≤ num/den ≤ 1/2` (R11). That its precision suffices for correct rounding on the
arguments of R11 is DEDUCED, unsafe: assumption log 8. -/
def sine32 (num den : Nat) : F32 := withSign false (roundMag (sineUnits num den) 11)

/-- `ROT_SIN[i]` = RNE32(sin(i·π/64)), i in 0..32 (R11). -/
def rotSin (i : Nat) : F32 := sine32 i 64

/-- `WIN_W[n]` = RNE32(sin((n + 1/2)·π/(2W))), n in 0..W−1 (R11). -/
def win (w n : Nat) : F32 := sine32 (2 * n + 1) (4 * w)

/-- Output sample `m` of `IMDCT_N` on the inputs `xs` (R12). Its value is open (`Config.imdctRaw`); P2 is
kept: when every input is ±0 the sample is ±0, and only its sign is open. -/
def imdctSample (n : Nat) (xs : List F32) (m : Nat) : F32 :=
  let y := Config.imdctRaw n xs m
  if xs.all isZero then withSign (signBit y) 0 else y

end Sys2Proof.Machine
end

