-- ==== Sys2Proof/Machine/Dequant.lean ====
section
/-! DEFINITION. The dequantizer: DEQUANT (R180). -/

namespace Sys2Proof.Machine

/-- The effective quant step q = QSTEP + QMOD[c], exact (R180). -/
def State.quantStep (s : State) (c : BitVec 3) : Int := sext16 s.qstep + sext16 (s.channel c).qmod

/-- The exponent e of band b: q − SFSTEP·(MAXSF − SF[b]), exact (R180). -/
def State.gainExponent (s : State) (c : BitVec 3) (b : Nat) : Int :=
  let r := s.channel c
  s.quantStep c - r.sfstep.toNat * (sext16 r.maxsf - sext16 (r.sf.getD b 0))

/-- Band b of DEQUANT: every coefficient times GAIN(e) (R180). -/
def dequantBand (s : State) (c : BitVec 3) (m : Memory) (b : Nat) : Memory :=
  let g := gain (s.gainExponent c b)
  mapCoef m c.toNat (s.bound b) (s.bound (b + 1)) (fun x => fmul x g)

/-- DEQUANT c (R180): the bands, then +0.0 at the positions SFB[SUB_NB] .. SUB_N−1 that belong to none. -/
def execDequant (c : BitVec 3) (s : State) : Host.Outcome State Fault Refusal :=
  let top := s.bound s.subNb.toNat
  runConfigured s (
    if !s.hasChannel c then .error .operandRange
    else if !s.subValid then .error .noSubframe
    else if !s.sfbOk then .error .bandBounds
    else if s.quantStep c < 0 then .error .negativeStep
    else .ok { s with
      mem := eraseBytes ((List.range s.subNb.toNat).foldl (dequantBand s c) s.mem)
        (coefAddr c.toNat top) (4 * (s.subN.toNat - top)) })

end Sys2Proof.Machine
end

