-- ==== Sys2Proof/Machine/Matrix.lean ====
section
/-! DEFINITION. The channel decorrelation matrix applier: GRP_SET, MX_IDENT, MX_MS45, MX_WRITE, MX_ANG, MX_SIGNS,
MX_ROT, MX_APPLY (R159-R167). All need CFG. -/

namespace Sys2Proof.Machine

/-- The members of GRP_SET are configured channels and none is repeated (R160). -/
def membersOk (ms : List Nat) (nch : Nat) : Bool := ms.all (fun m => m < nch) && decide ms.Nodup

/-- GRP_SET g (R160). GRP_CH keeps nibbles 0..n−1 of ARG0 and 0 above them. -/
def execGrpSet (g : BitVec 3) (s : State) : Host.Outcome State Fault Refusal :=
  let size := argSize s.arg1
  let n := size.toNat
  runConfigured s (
    if n < 1 || n > s.cfgNch.toNat then .error .operandRange
    else if !membersOk (argMembers s.arg0 n) s.cfgNch.toNat then .error .operandRange
    else if argOffscale s.arg1 && n ≠ 2 then .error .operandRange
    else .ok (s.setGroup g
      { ch := BitVec.ofNat 32 (s.arg0.toNat % 16 ^ n)
        size := size
        offscale := argOffscale s.arg1
        mask := s.arg2
        sgn := 0
        ang := Vector.replicate 28 0
        mat := identity n }))

/-- MX_IDENT g (R161). -/
def execMxIdent (g : BitVec 3) (s : State) : Host.Outcome State Fault Refusal :=
  let r := s.group g
  runConfigured s (
    if r.count = 0 then .error .noGroup
    else .ok (s.setGroup g { r with mat := identity r.count }))

/-- The 45° mid/side matrix [[C45, −C45], [C45, C45]] (R162). -/
def ms45 : Matrix :=
  matSet (matSet (matSet (matSet Matrix.zero 0 0 c45) 0 1 (fneg c45)) 1 0 c45) 1 1 c45

/-- MX_MS45 g (R162). -/
def execMxMs45 (g : BitVec 3) (s : State) : Host.Outcome State Fault Refusal :=
  let r := s.group g
  runConfigured s (
    if r.count = 0 then .error .noGroup
    else if r.count ≠ 2 then .error .operandRange
    else .ok (s.setGroup g { r with mat := ms45 }))

/-- MX_WRITE g, i, j (R163): the bits of ARG0 are stored unchanged. -/
def execMxWrite (g i j : BitVec 3) (s : State) : Host.Outcome State Fault Refusal :=
  let r := s.group g
  runConfigured s (
    if r.count = 0 then .error .noGroup
    else if i.toNat ≥ r.count || j.toNat ≥ r.count then .error .operandRange
    else .ok (s.setGroup g { r with mat := matSet r.mat i.toNat j.toNat s.arg0 }))

/-- MX_ANG g, k, a (R164). -/
def execMxAng (g : BitVec 3) (k : BitVec 5) (a : BitVec 6) (s : State) :
    Host.Outcome State Fault Refusal :=
  let r := s.group g
  runConfigured s (
    if r.count = 0 then .error .noGroup
    else if k.toNat ≥ r.count * (r.count - 1) / 2 then .error .operandRange
    else .ok (s.setGroup g { r with ang := r.ang.setIfInBounds k.toNat a }))

/-- MX_SIGNS g, s (R165). -/
def execMxSigns (g : BitVec 3) (sg : BitVec 8) (s : State) : Host.Outcome State Fault Refusal :=
  let r := s.group g
  runConfigured s (
    if r.count = 0 then .error .noGroup
    else if sg.toNat ≥ 2 ^ r.count then .error .operandRange
    else .ok (s.setGroup g { r with sgn := sg }))

/-- `sinv` of an angle code (R166). -/
def angleSin (code : Nat) : F32 := if code < 32 then rotSin code else rotSin (64 - code)

/-- `cosv` of an angle code (R166): −0.0 for code 32. -/
def angleCos (code : Nat) : F32 := if code < 32 then rotSin (32 - code) else fneg (rotSin (code - 32))

/-- One plane rotation of rows x and i, columns 0..i, in place (R166). -/
def rotateRows (m : Matrix) (x i : Nat) (sinv cosv : F32) : Matrix :=
  (List.range (i + 1)).foldl (fun m y =>
    let v1 := matGet m x y
    let v2 := matGet m i y
    matSet (matSet m x y (fsub (fmul v1 sinv) (fmul v2 cosv))) i y
      (fadd (fmul v1 cosv) (fmul v2 sinv))) m

/-- Step i of the synthesis (R166): row i against each row x < i, with the angle codes from `offset` on. -/
def rotationStep (ang : Vector (BitVec 6) 28) (m : Matrix) (offset i : Nat) : Matrix :=
  (List.range i).foldl (fun m x =>
    let code := (ang.getD (offset + x) 0).toNat
    rotateRows m x i (angleSin code) (angleCos code)) m

/-- The custom matrix of n members, from the sign bits and the angle codes (R166). -/
def rotationMatrix (n : Nat) (sgn : BitVec 8) (ang : Vector (BitVec 6) 28) : Matrix :=
  let start := diagonal n (fun i => if sgn.getLsbD i then one32 else minusOne32)
  ((List.range' 1 (n - 1)).foldl
    (fun (acc : Matrix × Nat) i => (rotationStep ang acc.1 acc.2 i, acc.2 + i)) (start, 0)).1

/-- MX_ROT g (R166). -/
def execMxRot (g : BitVec 3) (s : State) : Host.Outcome State Fault Refusal :=
  let r := s.group g
  runConfigured s (
    if r.count = 0 then .error .noGroup
    else .ok (s.setGroup g { r with mat := rotationMatrix r.count r.sgn r.ang }))

/-- Output member j at position y (R167): the sum over k of d[k]·M[j][k], from +0.0, in the order of k. -/
def mixAt (m : Memory) (r : Group) (j y : Nat) : F32 :=
  (List.range r.count).foldl
    (fun sum k => fadd sum (fmul (coef m (r.member k) y) (matGet r.mat j k))) 0

/-- The matrix on the positions lo..hi−1 (R167): every output is computed from the coefficients as they stand
before any write, then member 0's positions are written, then member 1's, … -/
def mixBand (m : Memory) (r : Group) (lo hi : Nat) : Memory :=
  (List.range r.count).foldl
    (fun acc j => writeWords acc (coefAddr (r.member j) lo)
      ((List.range' lo (hi - lo)).map (mixAt m r j))) m

/-- The rescale of a transform-off band (R167): the coefficients of members 0 and 1 times OFFSCALE_K. -/
def rescaleBand (m : Memory) (r : Group) (lo hi : Nat) : Memory :=
  let m := mapCoef m (r.member 0) lo hi (fun x => fmul x offscaleK)
  mapCoef m (r.member 1) lo hi (fun x => fmul x offscaleK)

/-- One band of MX_APPLY (R167): mixed, rescaled, or left unchanged. -/
def applyBand (s : State) (r : Group) (m : Memory) (b : Nat) : Memory :=
  let lo := s.bound b
  let hi := s.bound (b + 1)
  if r.mask.getLsbD b then mixBand m r lo hi
  else if r.offscale then rescaleBand m r lo hi
  else m

/-- MX_APPLY g (R167). -/
def execMxApply (g : BitVec 3) (s : State) : Host.Outcome State Fault Refusal :=
  let r := s.group g
  runConfigured s (
    if r.count = 0 then .error .noGroup
    else if !s.subValid then .error .noSubframe
    else if !s.sfbOk then .error .bandBounds
    else .ok { s with mem := (List.range s.subNb.toNat).foldl (applyBand s r) s.mem })

end Sys2Proof.Machine
end

