-- ==== Sys2Proof/Machine/Imdct.lean ====
section
/-! DEFINITION. The inverse transform engine: IMDCT (R190), over the open function of R12. -/

namespace Sys2Proof.Machine

/-- The first PCM index of the current subframe's block: CFG_SPF/2 + SUB_OFF (R42, R190, R200). -/
def State.blockBase (s : State) : Nat := s.cfgSpf.toNat / 2 + s.subOff.toNat

/-- The coefficients COEF[c][0..N−1] (R190). -/
def State.coefs (s : State) (c : BitVec 3) : List F32 :=
  (List.range s.subN.toNat).map (coef s.mem c.toNat)

/-- IMDCT c (R190): the N output samples overwrite PCM[c] from the block's base on. -/
def execImdct (c : BitVec 3) (s : State) : Host.Outcome State Fault Refusal :=
  let n := s.subN.toNat
  let xs := s.coefs c
  runConfigured s (
    if !s.hasChannel c then .error .operandRange
    else if !s.subValid then .error .noSubframe
    else .ok { s with
      mem := writeWords s.mem (pcmAddr c.toNat s.blockBase) ((List.range n).map (imdctSample n xs)) })

end Sys2Proof.Machine
end

