-- ==== Sys2Proof/Machine/Output.lean ====
section
/-! DEFINITION. The overlap-add windower, the history buffer and the output stage: WINDOW, PCM_ZERO, OUT_EMIT
(R200-R203). All need CFG. -/

namespace Sys2Proof.Machine

/-- The cross-fade at position m of an overlap of 2h samples that begins at `start`, with WIN_W for W = `w`
and h = W/2 (R200). In the first half the tail `a` stands at m and the head `b` at its mirror place
2h−1−m; in the second half the reverse. -/
def crossFade (mem : Memory) (c start w m : Nat) : F32 :=
  let mirror := 2 * (w / 2) - 1 - m
  let atM := pcm mem c (start + m)
  let atMirror := pcm mem c (start + mirror)
  if m < w / 2 then fsub (fmul atM (win w mirror)) (fmul atMirror (win w m))
  else fadd (fmul atMirror (win w mirror)) (fmul atM (win w m))

/-- WINDOW c (R200). Each output of the overlap is computed from the samples before any is written. -/
def execWindow (c : BitVec 3) (s : State) : Host.Outcome State Fault Refusal :=
  let r := s.channel c
  let w := min r.prevLen.toNat s.subN.toNat
  let h := w / 2
  let start := s.blockBase - h
  runConfigured s (
    if !s.hasChannel c then .error .operandRange
    else if !s.subValid then .error .noSubframe
    else .ok { s.setChannel c { r with prevLen := s.subN } with
      mem := writeWords s.mem (pcmAddr c.toNat start)
        ((List.range (2 * h)).map (crossFade s.mem c.toNat start w)) })

/-- PCM_ZERO c (R201). The sum of start and count is exact. -/
def execPcmZero (c : BitVec 3) (s : State) : Host.Outcome State Fault Refusal :=
  runConfigured s (
    if !s.hasChannel c then .error .operandRange
    else if s.arg0.toNat + s.arg1.toNat > s.cfgSpf.toNat then .error .operandRange
    else .ok { s with
      mem := eraseBytes s.mem (pcmAddr c.toNat (s.cfgSpf.toNat / 2 + s.arg0.toNat)) (4 * s.arg1.toNat) })

/-- The channel placed in output slot j (R203): REMAP6 for six channels, the identity otherwise. -/
def State.slotChannel (s : State) (j : Nat) : Nat :=
  if s.cfgNch.toNat = 6 then nibble (s.remap6.setWidth 32) j else j

/-- Sample k of OUT (R203): sample k / C of slot k % C, clipped to 16 bits. -/
def State.outSample (s : State) (k : Nat) : BitVec 16 :=
  clip16 (pcm s.mem (s.slotChannel (k % s.cfgNch.toNat)) (k / s.cfgNch.toNat))

/-- The history shift of one channel for a frame of `spf` samples (R203): the last half-block becomes the tail
and the rest of the frame becomes +0.0. -/
def shiftHistory (spf : Nat) (m : Memory) (c : Nat) : Memory :=
  let tail := (List.range (spf / 2)).map (fun i => pcm m c (spf + i))
  eraseBytes (writeWords m (pcmAddr c 0) tail) (pcmAddr c (spf / 2)) (4 * spf)

/-- OUT_EMIT (R203). -/
def execOutEmit (s : State) : Host.Outcome State Fault Refusal :=
  let nch := s.cfgNch.toNat
  let spf := s.cfgSpf.toNat
  runConfigured s (
    .ok { s with
      mem := (List.range nch).foldl (shiftHistory spf)
        (writeBytes s.mem (outAddr 0)
          (((List.range (nch * spf)).map s.outSample).flatMap sampleBytes)) })

end Sys2Proof.Machine
end

