-- ==== Sys2Proof/Machine/Dispatch.lean ====
section
/-! DEFINITION. The dispatch: one direct call of a meaning per command (R84). -/

namespace Sys2Proof.Machine

def exec (i : Instr) (s : State) : Host.Outcome State Fault Refusal :=
  match i with
  | .nop => Sys2Proof.Machine.execNop s
  | .brInit => Sys2Proof.Machine.execBrInit s
  | .brRead n => Sys2Proof.Machine.execBrRead n s
  | .brPeek n => Sys2Proof.Machine.execBrPeek n s
  | .brSkip n => Sys2Proof.Machine.execBrSkip n s
  | .brTell => Sys2Proof.Machine.execBrTell s
  | .brVlc t => Sys2Proof.Machine.execBrVlc t s
  | .vlcBegin t maxlen => Sys2Proof.Machine.execVlcBegin t maxlen s
  | .vlcAdd t => Sys2Proof.Machine.execVlcAdd t s
  | .vlcEnd t => Sys2Proof.Machine.execVlcEnd t s
  | .grpSet g => Sys2Proof.Machine.execGrpSet g s
  | .mxIdent g => Sys2Proof.Machine.execMxIdent g s
  | .mxMs45 g => Sys2Proof.Machine.execMxMs45 g s
  | .mxWrite g a b => Sys2Proof.Machine.execMxWrite g a b s
  | .mxAng g k a => Sys2Proof.Machine.execMxAng g k a s
  | .mxSigns g sg => Sys2Proof.Machine.execMxSigns g sg s
  | .mxRot g => Sys2Proof.Machine.execMxRot g s
  | .mxApply g => Sys2Proof.Machine.execMxApply g s
  | .subSet nb => Sys2Proof.Machine.execSubSet nb s
  | .sfbSet b => Sys2Proof.Machine.execSfbSet b s
  | .qsSet => Sys2Proof.Machine.execQsSet s
  | .chQset c => Sys2Proof.Machine.execChQset c s
  | .sfSet c b => Sys2Proof.Machine.execSfSet c b s
  | .coefClr c => Sys2Proof.Machine.execCoefClr c s
  | .dequant c => Sys2Proof.Machine.execDequant c s
  | .imdct c => Sys2Proof.Machine.execImdct c s
  | .window c => Sys2Proof.Machine.execWindow c s
  | .pcmZero c => Sys2Proof.Machine.execPcmZero c s
  | .prevSet c => Sys2Proof.Machine.execPrevSet c s
  | .outEmit => Sys2Proof.Machine.execOutEmit s
  | .remapSet => Sys2Proof.Machine.execRemapSet s
  | .errClr => Sys2Proof.Machine.execErrClr s
  | .cfg => Sys2Proof.Machine.execCfg s

end Sys2Proof.Machine
end

