-- ==== Sys2Proof/Machine/Issue.lean ====
section
/-! DEFINITION. One step of the core (R14): the host's next event, and for a CMD write the whole command. -/

namespace Sys2Proof.Machine

/-- A command word runs (R85): its instruction, or the error of a word that is no command. -/
def runWord (w : Word) (s : State) : Host.Outcome State Fault Refusal :=
  match decode w with
  | .ok i => exec i s
  | .error e => runIllegal s e

/-- A CMD write while BUSY = 0 (R25): the issue, the host's events inside the BUSY interval (R256), and, unless
one of them is a reset, which aborts the command (R250), the command itself. -/
def issueCommand (w : Word) (rest : List HostOp) (s : State) : Host.Outcome State Fault Refusal :=
  match State.overlap rest .command (s.issue w) with
  | (.command, t) => runWord w t
  | (.clearing, t) => .next { t with busy := false }

/-- What makes a state one that no rule produces (R236, M6-M8). DEDUCED, safe: assumption log 11. -/
def State.broken (s : State) : Option Fault :=
  if s.busy then some .busyBetweenSteps
  else if 7 ≤ s.err.toNat then some .reservedErrorCode
  else if s.vlc.toList.any (fun r => r.state = 3) then some .reservedVlcState
  else none

/-- The host's next event `e`, with `rest` still to come, on a core with BUSY = 0 (R14, R62, R63). -/
def hostEvent (e : HostEvent) (rest : List HostOp) (s : State) : Host.Outcome State Fault Refusal :=
  match e with
  | .powerOnReset => .next (s.resetWith rest)
  | .read addr => .next ({ s with host := rest }.logRead addr (s.busRead (busOffset addr)))
  | .write addr v =>
    if busOffset addr = cmdOffset then issueCommand v rest s
    else if busOffset addr = ctrlOffset && v.getLsbD 0 then .next (s.resetWith rest)
    else .next ({ s with host := rest }.busWrite (busOffset addr) v)

/-- One step (R14). With no event pending the core is idle and keeps all state (R233). DESIGN CHOICE,
safe: assumption log 12. -/
def hostStep (s : State) : Host.Outcome State Fault Refusal :=
  match s.broken with
  | some f => .fault f
  | none =>
    match s.host with
    | [] => .next s
    | op :: rest => hostEvent op.event rest s

/-- The state in which the host's next event is a CMD write of the word `w`, made after BUSY = 0. -/
def State.queueCommand (s : State) (w : Word) : State :=
  { s with host := { early := false, event := .write (BitVec.ofNat 32 cmdOffset) w } :: s.host }

end Sys2Proof.Machine
end

