-- ==== Sys2Proof/Machine/Step.lean ====
section
/-! DEFINITION. The step of the machine and the place a command is fetched from: the host's CMD write (R20, R25). -/

namespace Sys2Proof.Machine

/-- One step of the core. -/
def step (s : State) : Host.Outcome State Fault Refusal := Sys2Proof.Machine.hostStep s

/-- `s` with a CMD write of the command word as the host's next access, so that the next step runs it. The core
fetches nothing (R20): the host's program is the list of its accesses. Assumption log 1. -/
def State.withFetchWord (s : State) (nbits w : Nat) : State :=
  s.queueCommand (BitVec.ofNat 32 (w % 2 ^ nbits))

end Sys2Proof.Machine
end

