-- ==== Sys2Proof/Safety.lean ====
section
/-! DEFINITION. What counts as a safe run, and the invariants of the state the rules promise. -/

namespace Sys2Proof.Machine

/-- `k` steps from `s` meet no fault and no refusal. -/
def SafeRun (k : Nat) (s : State) : Prop := ∃ t, Sys2Proof.core.run k s = .next t

/-- The flags between two steps: BUSY is 0 (R13), ERR holds no reserved code (R220), the latch's registers are 0
while no error is latched (R28, R134), and no table has STATE 3 (R38). -/
def StatusInv (s : State) : Prop :=
  s.busy = false ∧ s.err.toNat ≤ 6 ∧ (s.err = 0 → s.errCmd = 0 ∧ s.errInfo = 0) ∧
    ∀ t, (s.table t).state ≠ 3

/-- "The invariant BR_START + BR_LEN ≤ BBUF_BITS and BR_POS ≤ BR_LEN always holds" (R29). -/
def BitReaderInv (s : State) : Prop :=
  s.brStart.toNat + s.brLen.toNat ≤ Config.bbufBits ∧ s.brPos.toNat ≤ s.brLen.toNat

/-- Entry (CODE, LEN) obeys a table's MAXLEN (R108). -/
def EntryOk (maxlen : Nat) (e : VlcEntry) : Prop :=
  1 ≤ e.len.toNat ∧ e.len.toNat ≤ maxlen ∧ e.code.toNat < 2 ^ e.len.toNat

/-- No code of table t is a prefix of another of its codes (R109), over the entries e < COUNT[t]. -/
def PrefixFreeTable (s : State) (t : BitVec 4) : Prop :=
  ∀ e f, e < (s.table t).count.toNat → f < (s.table t).count.toNat → e ≠ f →
    (s.vlcEntry t e).len.toNat ≤ (s.vlcEntry t f).len.toNat →
    (s.vlcEntry t f).code.toNat >>> ((s.vlcEntry t f).len.toNat - (s.vlcEntry t e).len.toNat) ≠
      (s.vlcEntry t e).code.toNat

/-- The VLC tables (R38, R107-R109): the entry RAM is canonical (the model's own form: assumption log 14, DESIGN
CHOICE); an INVALID table has MAXLEN 0 and COUNT 0; a begun
table has 1 ≤ MAXLEN ≤ 32, COUNT ≤ 512 and legal entries; a VALID table has an entry and is prefix-free. -/
def VlcInv (s : State) : Prop :=
  storeWf VlcEntry.zero s.vlcRam = true ∧
  ∀ t,
    ((s.table t).state = 0 → (s.table t).maxlen = 0 ∧ (s.table t).count = 0) ∧
    ((s.table t).state ≠ 0 → 1 ≤ (s.table t).maxlen.toNat) ∧
    (s.table t).maxlen.toNat ≤ Config.vlcMaxLen ∧
    (s.table t).count.toNat ≤ Config.vlcMaxEntries ∧
    (∀ e, e < (s.table t).count.toNat → EntryOk (s.table t).maxlen.toNat (s.vlcEntry t e)) ∧
    ((s.table t).state = 2 → 1 ≤ (s.table t).count.toNat ∧ PrefixFreeTable s t)

/-- A legal stream configuration (R132). -/
def LegalConfig (nch spf maxsub : Nat) : Prop :=
  1 ≤ nch ∧ nch ≤ Config.maxCh ∧ isPow2 spf = true ∧ Config.minBlock ≤ spf ∧ spf ≤ Config.spfMax ∧
    isPow2 maxsub = true ∧ Config.minBlock ≤ spf / maxsub

/-- A legal subframe context (R136). -/
def LegalSubframe (spf maxsub n off nb : Nat) : Prop :=
  isPow2 n = true ∧ spf / maxsub ≤ n ∧ n ≤ spf ∧ off + n ≤ spf ∧ 1 ≤ nb ∧ nb ≤ Config.maxBands

/-- The configuration and subframe registers hold legal values (R30-R33): before CFG they are 0; after it the
configuration is legal, each PREV_LEN is a power of two in [128, CFG_SPF] (R200), a VALID subframe is legal, every
boundary is at most 4096, and REMAP6 is a permutation of 0..5. -/
def ConfigInv (s : State) : Prop :=
  isRemap (s.remap6.setWidth 32) = true ∧
  (∀ b, s.bound b ≤ Config.maxBlock) ∧
  (s.configured = false → s.cfgNch = 0 ∧ s.cfgSpf = 0 ∧ s.cfgMaxsub = 0 ∧ s.subValid = false) ∧
  (s.configured = true → LegalConfig s.cfgNch.toNat s.cfgSpf.toNat s.cfgMaxsub.toNat ∧
    ∀ c, isPow2 (s.channel c).prevLen.toNat = true ∧ Config.minBlock ≤ (s.channel c).prevLen.toNat ∧
      (s.channel c).prevLen.toNat ≤ s.cfgSpf.toNat) ∧
  (s.subValid = true → LegalSubframe s.cfgSpf.toNat s.cfgMaxsub.toNat s.subN.toNat s.subOff.toNat
    s.subNb.toNat)

/-- A group's registers (R35-R37, R159-R165) for a stream of `nch` channels: its members are distinct configured
channels, the nibbles above them are 0, OFFSCALE stands only on a 2-member group, no sign bit lies outside the group,
and the matrix is +0.0 outside the group's n×n block. -/
def GroupOk (nch : Nat) (r : Group) : Prop :=
  r.count ≤ nch ∧
  (∀ k, k < r.count → r.member k < nch) ∧
  (∀ k, r.count ≤ k → r.member k = 0) ∧
  (∀ k l, k < r.count → l < r.count → r.member k = r.member l → k = l) ∧
  (r.offscale = true → r.count = 2) ∧
  r.sgn.toNat < 2 ^ r.count ∧
  (∀ i j, ¬(i < r.count ∧ j < r.count) → matGet r.mat i j = 0)

/-- Every group is as R159 says, for at most 8 channels; before CFG no group is set. -/
def GroupInv (s : State) : Prop :=
  s.cfgNch.toNat ≤ Config.maxCh ∧ ∀ g, GroupOk s.cfgNch.toNat (s.group g)

/-- A byte offset of BBUF, COEF, the 6144 words of a PCM channel, or OUT (R61). -/
def InRam (a : Nat) : Prop :=
  (0x10000 ≤ a ∧ a < 0x40000) ∨
    (0x40000 ≤ a ∧ a < 0x80000 ∧ a % 0x8000 < 4 * Config.pcmWords) ∨
    (0x80000 ≤ a ∧ a < 0x90000)

/-- The data RAMs are canonical. -/
def MemoryInv (s : State) : Prop := Memory.wf s.mem = true

/-- Nothing stands outside the RAM windows of the map: every other offset reads 0 (R61). -/
def ExtentInv (s : State) : Prop := ∀ a, ¬InRam a → readByte s.mem a = 0

end Sys2Proof.Machine
end

