-- ==== Sys2Proof/Certificates/Slice0/Obligations.lean ====
section
/-! DEFINITION. The statements for the provers, in the spec's own terms: bits and bytes of BBUF, elements of COEF, PCM
and OUT, register fields as numbers, ERR codes and ERR_INFO values. A command's statement gives its next state as a
record equality, so every field not named there is unchanged; where memory changes it says which bytes do not. -/

namespace Sys2Proof.Spec

open Sys2Proof.Machine

/-! Words of the statements. -/

/-- Completion (R24): BUSY 0, DONE 1, nothing else. -/
def finished (t : Machine.State) : Machine.State := { t with busy := false, done := true }

/-- `raise(code, info)` and completion (R224): the latch, BUSY and DONE, nothing else. -/
def raised (s : Machine.State) (code : BitVec 4) (info : Word) : Machine.State :=
  { s with err := code, errCmd := s.lastCmd, errInfo := info, busy := false, done := true }

/-- The issue of the command word `w` (R25) with `rest` still to come from the host. -/
def issued (s : Machine.State) (w : Word) (rest : List HostOp) : Machine.State :=
  { s with lastCmd := w, busy := true, done := false, host := rest }

/-- A state between two steps that R236 does not call broken. -/
def Sound (s : Machine.State) : Prop :=
  s.busy = false ∧ s.err.toNat ≤ 6 ∧ ∀ t, (s.table t).state ≠ 3

/-- The next access of the host, if any, waits for BUSY = 0. -/
def Waits (rest : List HostOp) : Prop := ∀ op, rest.head? = some op → op.early = false

/-- An access that starts a reset (R250): the reset input, or a CTRL write with bit 0 = 1. -/
def IsReset (e : HostEvent) : Prop :=
  e = .powerOnReset ∨ ∃ addr v, e = .write addr v ∧ busOffset addr = 0x004 ∧ v.getLsbD 0 = true

/-- A host's accesses that start a reset: one while BUSY = 0, or one inside the interval of a command. -/
def StartsReset (ops : List HostOp) : Prop :=
  ∃ early e, IsReset e ∧ (ops = [⟨early, e⟩] ∨
    ∃ addr w, busOffset addr = 0x00C ∧ ops = [⟨early, .write addr w⟩, ⟨true, e⟩])

/-- `pow2(x)` (R7). -/
def Pow2 (x : Nat) : Prop := ∃ k, x = 2 ^ k

/-- `bit(p)` of R100 on the bytes of BBUF: byte a/8 of the bit address a = BR_START + p, its most significant bit
first. -/
def bit (s : Machine.State) (p : Nat) : Bool :=
  (readByte s.mem (0x10000 + (s.brStart.toNat + p) / 8)).getLsbD (7 - (s.brStart.toNat + p) % 8)

/-- `r` is `bits(BR_POS, n)` of R100: its value is below 2^n and the bit read k-th is its bit n−1−k. -/
def IsBits (s : Machine.State) (n : Nat) (r : Word) : Prop :=
  r.toNat < 2 ^ n ∧ ∀ k, k < n → r.getLsbD (n - 1 - k) = bit s (s.brPos.toNat + k)

/-- The bits at the cursor are the code of `e` (R106): CODE is below 2^LEN and is read most significant bit first. -/
def CodeMatches (s : Machine.State) (e : VlcEntry) : Prop := IsBits s e.len.toNat e.code

/-- The bits left, BR_LEN − BR_POS (R106). -/
def bitsLeft (s : Machine.State) : Nat := s.brLen.toNat - s.brPos.toNat

/-- `sfb_ok()` of R135. -/
def BandsOk (s : Machine.State) : Prop :=
  s.bound 0 = 0 ∧ (∀ b, b < s.subNb.toNat → s.bound b ≤ s.bound (b + 1)) ∧
    s.bound s.subNb.toNat ≤ s.subN.toNat

/-- The command passes the lock and the configuration check (R222). -/
def Ready (s : Machine.State) : Prop := s.err = 0 ∧ s.configured = true

/-- The RAM windows the host may write (R61): BBUF, COEF, and the 6144 words of each PCM channel. -/
def RamWindow (off : Nat) : Prop :=
  (0x10000 ≤ off ∧ off < 0x40000) ∨ (0x40000 ≤ off ∧ off < 0x80000 ∧ off % 0x8000 < 4 * 6144)

/-- A byte of memory reads as before. -/
def SameByte (s u : Machine.State) (a : Nat) : Prop := readByte u.mem a = readByte s.mem a

/-- The registers of every other channel as before. -/
def OtherChannels (s u : Machine.State) (c : BitVec 3) : Prop := ∀ d, d ≠ c → u.channel d = s.channel d

/-- The registers of every other group as before. -/
def OtherGroups (s u : Machine.State) (g : BitVec 3) : Prop := ∀ d, d ≠ g → u.group d = s.group d

/-- The values of CFG that R132 accepts. -/
def LegalCfg (nch spf maxsub : Nat) : Prop :=
  1 ≤ nch ∧ nch ≤ 8 ∧ Pow2 spf ∧ 128 ≤ spf ∧ spf ≤ 4096 ∧ Pow2 maxsub ∧ 128 * maxsub ≤ spf

/-- Member k of GRP_SET's ARG0 (R160): bits [4k+3:4k]. -/
def argMember (s : Machine.State) (k : Nat) : Nat := s.arg0.toNat / 2 ^ (4 * k) % 16

/-- The operands of GRP_SET that R160 accepts, for SIZE n. -/
def LegalGroup (s : Machine.State) (n : Nat) : Prop :=
  1 ≤ n ∧ n ≤ s.cfgNch.toNat ∧ (∀ k, k < n → argMember s k < s.cfgNch.toNat) ∧
    (∀ k l, k < n → l < k → argMember s k ≠ argMember s l) ∧ (s.arg1.getLsbD 8 = true → n = 2)

/-- The sum of R167 over the first n members, in the order of k, from +0.0: d[k]·M[j][k]. -/
def mixSum (m : Memory) (r : Group) (j y : Nat) : Nat → F32
  | 0 => 0
  | n + 1 => fadd (mixSum m r j y n) (fmul (coef m (r.member n) y) (matGet r.mat j n))

/-- The coefficient MX_APPLY leaves at position y of band b for member j (R167). -/
def mixedCoef (m : Memory) (r : Group) (b j y : Nat) : F32 :=
  if r.mask.getLsbD b then mixSum m r j y r.count
  else if r.offscale then fmul (coef m (r.member j) y) 0x3FB50000#32
  else coef m (r.member j) y

/-- One rotation of R166 on a matrix read as a function: rows x and i at the columns y ≤ i. -/
def rotateAt (m : Nat → Nat → F32) (x i : Nat) (sinv cosv : F32) (row y : Nat) : F32 :=
  if y ≤ i then
    if row = x then fsub (fmul (m x y) sinv) (fmul (m i y) cosv)
    else if row = i then fadd (fmul (m x y) cosv) (fmul (m i y) sinv)
    else m row y
  else m row y

/-- The rotations of row i against rows 0..x−1 (R166); the angle codes of row i start at i(i−1)/2. -/
def rotateRow (ang : Nat → Nat) (i : Nat) (m : Nat → Nat → F32) : Nat → Nat → Nat → F32
  | 0 => m
  | x + 1 =>
    let code := ang (i * (i - 1) / 2 + x)
    rotateAt (rotateRow ang i m x) x i
      (if code < 32 then rotSin code else rotSin (64 - code))
      (if code < 32 then rotSin (32 - code) else fneg (rotSin (code - 32)))

/-- The matrix of R166 after rows 1..n−1, from ±1.0 on the diagonal of the first `size` members. -/
def customMatrix (size : Nat) (sgn : BitVec 8) (ang : Nat → Nat) : Nat → Nat → Nat → F32
  | 0 => fun i j => if i = j ∧ i < size then (if sgn.getLsbD i then 0x3F800000#32 else 0xBF800000#32) else 0
  | n + 1 => rotateRow ang n (customMatrix size sgn ang n) n

/-- The exponent e of R180 for band b, on unbounded integers. -/
def bandExponent (s : Machine.State) (c : BitVec 3) (b : Nat) : Int :=
  s.qstep.toInt + (s.channel c).qmod.toInt -
    (s.channel c).sfstep.toNat * ((s.channel c).maxsf.toInt - ((s.channel c).sf.getD b 0).toInt)

/-- The magnitude of the binary32 whose lower 31 bits are n, in units of 2^-149. -/
def magOf (n : Nat) : Nat := mag (BitVec.ofNat 32 n)

/-- A finite binary32. -/
def Finite (x : F32) : Prop := expField x < 255

/-- +0.0 or −0.0. -/
def Zero (x : F32) : Prop := x = 0 ∨ x = 0x80000000#32

/-- `x` lies closer to the rational `num / 2^sh` (in units of 2^-149) than any other finite binary32, and at a tie its
last bit is 0: round to nearest, ties to even (R10). -/
def Nearest (x : F32) (num : Int) (sh : Nat) : Prop :=
  ∀ y, Finite y → toUnits y ≠ toUnits x →
    (toUnits x * 2 ^ sh - num).natAbs < (toUnits y * 2 ^ sh - num).natAbs ∨
    ((toUnits x * 2 ^ sh - num).natAbs = (toUnits y * 2 ^ sh - num).natAbs ∧ x.getLsbD 0 = false)

/-- +infinity or −infinity. -/
def Infinite (x : F32) : Prop := x = 0x7F800000#32 ∨ x = 0xFF800000#32

/-- `x` is RNE32(r) of R11 for a real `r ≥ 0` below the overflow: a finite binary32 without a minus sign that lies closer
to `r` than any other finite binary32, and at a tie its last bit is 0. Both are taken in units of 2^-149. -/
def RoundsReal (x : F32) (r : ℝ) : Prop :=
  Finite x ∧ signBit x = false ∧ ∀ y, Finite y → toUnits y ≠ toUnits x →
    |(toUnits x : ℝ) - r * 2 ^ 149| < |(toUnits y : ℝ) - r * 2 ^ 149| ∨
    (|(toUnits x : ℝ) - r * 2 ^ 149| = |(toUnits y : ℝ) - r * 2 ^ 149| ∧ x.getLsbD 0 = false)

/-- The exact value `num / 2^sh` units rounds past the largest finite binary32: its magnitude is at least
(2 − 2^-24)·2^127, which is (2^25 − 1)·2^252 units. -/
def Overflows (num : Int) (sh : Nat) : Prop := (2 ^ 25 - 1) * 2 ^ 252 * 2 ^ sh ≤ num.natAbs

/-- The opcodes R86 lists as undefined. -/
def UndefinedOpcode (w : Word) : Prop :=
  let o := w.toNat / 2 ^ 24
  o = 0x07 ∨ (0x0B ≤ o ∧ o ≤ 0x0F) ∨ (0x18 ≤ o ∧ o ≤ 0x1F) ∨ (0x2B ≤ o ∧ o ≤ 0x2F) ∨
    (0x31 ≤ o ∧ o ≤ 0x3B) ∨ o = 0x3E ∨ 0x40 ≤ o

/-- The (mask, match) pairs of the opcode table (R84, opcode_table.json), in its order. -/
def tableRows : List (Word × Word) :=
  [(0xFFFFFFFF, 0x00000000), (0xFFFFFFFF, 0x01000000), (0xFFFFFFC0, 0x02000000), (0xFFFFFFC0, 0x03000000),
   (0xFFF00000, 0x04000000), (0xFFFFFFFF, 0x05000000), (0xFFFFFFF0, 0x06000000), (0xFFFFC0F0, 0x08000000)] ++
  [(0xFFFFFFF0, 0x09000000), (0xFFFFFFF0, 0x0A000000), (0xFFFFFFF8, 0x10000000), (0xFFFFFFF8, 0x11000000),
   (0xFFFFFFF8, 0x12000000), (0xFFFFF888, 0x13000000), (0xFFC0FE08, 0x14000000), (0xFFFF00F8, 0x15000000)] ++
  [(0xFFFFFFF8, 0x16000000), (0xFFFFFFF8, 0x17000000), (0xFFFFFFC0, 0x20000000), (0xFFFFFFC0, 0x21000000),
   (0xFFFFFFFF, 0x22000000), (0xFFFFFFF8, 0x23000000), (0xFFFFE0F8, 0x24000000), (0xFFFFFFF8, 0x25000000)] ++
  [(0xFFFFFFF8, 0x26000000), (0xFFFFFFF8, 0x27000000), (0xFFFFFFF8, 0x28000000), (0xFFFFFFF8, 0x29000000),
   (0xFFFFFFF8, 0x2A000000), (0xFFFFFFFF, 0x30000000), (0xFFFFFFFF, 0x3C000000), (0xFFFFFFFF, 0x3D000000),
   (0xFFFFFFFF, 0x3F000000)]

/-- The commands that need CFG (R84, column "Needs CFG"). -/
def needsCfg : Instr → Bool
  | .grpSet _ | .mxIdent _ | .mxMs45 _ | .mxWrite _ _ _ | .mxAng _ _ _ | .mxSigns _ _ | .mxRot _ | .mxApply _ => true
  | .subSet _ | .sfbSet _ | .qsSet | .chQset _ | .sfSet _ _ | .coefClr _ | .dequant _ | .imdct _ => true
  | .window _ | .pcmZero _ | .prevSet _ | .outEmit => true
  | .nop | .brInit | .brRead _ | .brPeek _ | .brSkip _ | .brTell | .brVlc _ => false
  | .vlcBegin _ _ | .vlcAdd _ | .vlcEnd _ | .remapSet | .errClr | .cfg => false

/-- The error codes a command can raise (R220, column "Raised by", with the errors its own rule lists). -/
def errorCodes : Instr → List (BitVec 4)
  | .nop | .brTell | .errClr => []
  | .brInit | .vlcBegin _ _ | .cfg | .remapSet => [4]
  | .brRead _ | .brPeek _ => [1, 4]
  | .brSkip _ => [1]
  | .brVlc _ => [1, 2, 5]
  | .vlcAdd _ | .vlcEnd _ => [5]
  | .subSet _ => [3, 6]
  | .outEmit | .mxIdent _ | .mxRot _ => [6]
  | .grpSet _ | .mxMs45 _ | .mxWrite _ _ _ | .mxAng _ _ _ | .mxSigns _ _ => [4, 6]
  | .sfbSet _ | .qsSet | .chQset _ | .sfSet _ _ | .coefClr _ | .pcmZero _ | .prevSet _ => [4, 6]
  | .imdct _ | .window _ => [4, 6]
  | .mxApply _ => [3, 6]
  | .dequant _ => [3, 4, 6]

/-- The bit-reader and VLC-building commands (R2, unit BR). -/
def isBitCommand : Instr → Bool
  | .brInit | .brRead _ | .brPeek _ | .brSkip _ | .brTell | .brVlc _ | .vlcBegin _ _ | .vlcAdd _ | .vlcEnd _ => true
  | _ => false

/-- The channel a command names (R130). -/
def channelOf : Instr → Option (BitVec 3)
  | .chQset c | .sfSet c _ | .coefClr c | .dequant c | .imdct c | .window c | .pcmZero c | .prevSet c => some c
  | _ => none

/-- The group a matrix command other than GRP_SET names (R159). -/
def groupOf : Instr → Option (BitVec 3)
  | .mxIdent g | .mxMs45 g | .mxWrite g _ _ | .mxAng g _ _ | .mxSigns g _ | .mxRot g | .mxApply g => some g
  | _ => none

end Sys2Proof.Spec

open Sys2Proof Sys2Proof.Machine

/-! Encoding (R80-R86). -/

/-- R80, R81: decoding the word of any well-formed command gives the command back. -/
def Obligations.DecodeOfEncode : Prop :=
  ∀ i : Instr, WellFormed i = true → decode (encode i) = .ok i

/-- R80, R81: a word that decodes is the word of the command it decodes to, bit for bit, and that command is well
formed. -/
def Obligations.EncodeOfDecode : Prop :=
  ∀ (w : Word) (i : Instr), decode w = .ok i → WellFormed i = true ∧ encode i = w

/-- R84-R86: a word decodes exactly when "(word & mask) == match" for a row of the opcode table; it is an undefined
opcode exactly for the opcodes R86 lists; every other word has a reserved bit set. -/
def Obligations.WordIsCommandIffTableRow : Prop :=
  ∀ w : Word,
    ((∃ i, decode w = .ok i) ↔ ∃ r ∈ Spec.tableRows, w &&& r.1 = r.2) ∧
    (decode w = .error .undefinedOpcode ↔ Spec.UndefinedOpcode w) ∧
    (decode w = .error .reservedBits ↔
      ¬Spec.UndefinedOpcode w ∧ ∀ r ∈ Spec.tableRows, w &&& r.1 ≠ r.2)

/-- Words of 95_test_vectors.md decode to the commands they stand for, one or more per family. -/
def Obligations.SampleWordsDecode : Prop :=
  decode 0x0200000D#32 = .ok (.brRead 13) ∧ decode 0x04000064#32 = .ok (.brSkip 100) ∧
  decode 0x08001302#32 = .ok (.vlcBegin 2 19) ∧ decode 0x13000010#32 = .ok (.mxWrite 0 1 0) ∧
  decode 0x14050010#32 = .ok (.mxAng 0 1 5) ∧ decode 0x15000700#32 = .ok (.mxSigns 0 7) ∧
  decode 0x20000014#32 = .ok (.subSet 20) ∧ decode 0x24000200#32 = .ok (.sfSet 0 2) ∧
  decode 0x26000001#32 = .ok (.dequant 1) ∧ decode 0x27000003#32 = .ok (.imdct 3) ∧
  decode 0x28000002#32 = .ok (.window 2) ∧ decode 0x30000000#32 = .ok .outEmit ∧
  decode 0x07000000#32 = .error .undefinedOpcode ∧ decode 0xFF000001#32 = .error .undefinedOpcode ∧
  decode 0x26000008#32 = .error .reservedBits ∧ decode 0x00000001#32 = .error .reservedBits

/-! The step: the host's accesses, command issue, reset (R13, R14, R25, R62, R250, R256). -/

/-- R14, R25: when the host's next access is a CMD write (at any address that reaches offset 0x00C) of a word that
decodes to `i`, and the host then waits, the step is `exec i` on the issued state: LASTCMD the word, BUSY 1, DONE 0,
the access taken from the host's list. The list stands for the host's program (assumption log 1). -/
def Obligations.StepRunsDecodedCommand : Prop :=
  ∀ (s : Machine.State) (early : Bool) (addr w : Word) (rest : List HostOp) (i : Instr),
    Spec.Sound s → s.host = ⟨early, .write addr w⟩ :: rest → busOffset addr = 0x00C → Spec.Waits rest →
    decode w = .ok i → step s = exec i (Spec.issued s w rest)

/-- R86, R224: with no error latched, a CMD write of an undefined opcode raises ILLEGAL_CMD with ERR_INFO 1, and one
whose opcode is defined but that is no row's word raises ILLEGAL_CMD with ERR_INFO 2; nothing else changes. -/
def Obligations.IllegalWordRaises : Prop :=
  ∀ (s : Machine.State) (early : Bool) (addr w : Word) (rest : List HostOp),
    Spec.Sound s → s.err = 0 → s.host = ⟨early, .write addr w⟩ :: rest → busOffset addr = 0x00C →
    Spec.Waits rest →
    (Spec.UndefinedOpcode w → step s = .next (Spec.raised (Spec.issued s w rest) 4 1)) ∧
    (¬Spec.UndefinedOpcode w → (∀ r ∈ Spec.tableRows, w &&& r.1 ≠ r.2) →
      step s = .next (Spec.raised (Spec.issued s w rest) 4 2))

/-- R256: "The command in progress runs to completion unaffected." Whatever accesses other than a reset the host makes
while a command keeps BUSY = 1, the step ends where `exec` of the command alone ends, up to HAZ, CTRL's enables and
the host's record of what it read. That a step holds these accesses at all is the model's choice (assumption log 2). -/
def Obligations.CommandUnaffectedByHostAccesses : Prop :=
  ∀ (s : Machine.State) (early : Bool) (addr w : Word) (inside rest : List HostOp) (i : Instr),
    Spec.Sound s → s.host = ⟨early, .write addr w⟩ :: (inside ++ rest) → busOffset addr = 0x00C →
    (∀ op ∈ inside, op.early = true ∧ ¬Spec.IsReset op.event) → Spec.Waits rest → decode w = .ok i →
    ∃ t u, exec i (Spec.issued s w rest) = .next t ∧ step s = .next u ∧
      u = { t with haz := u.haz, ieDone := u.ieDone, ieErr := u.ieErr, reads := u.reads }

/-- R256: what one access inside a BUSY interval does, as whole next states. Inside a command's, which ends at `t` without
it: a read of STATUS returns it (BUSY 1, DONE 0) and one of ID its constant; a CTRL write without SRST changes the
enables; a STATUS write clears HAZ where it has a 1; every other read returns 0 and every other write, a CMD or ARG
write too, does nothing, and both set HAZ. Inside the clearing interval of a reset: the same reads, STATUS reading BUSY
alone, which is the model's choice (assumption log 18, DESIGN CHOICE); a CTRL write without SRST sets the enables, which
keep it (assumption log 4, DEDUCED); a CTRL write with SRST, a STATUS write and every other access, read or write, leave
the reset state, HAZ 0. That enables written together with SRST are lost, by the write that starts the reset and by one
inside the clearing, is read from R251 (assumption log 5, DEDUCED). The accesses inside an interval and the record of
reads are the model's (assumption logs 2 and 6). -/
def Obligations.AccessInsideBusyInterval : Prop :=
  ∀ (s : Machine.State) (early : Bool) (addr w a v : Word) (ops rest : List HostOp) (i : Instr),
    Spec.Sound s → Spec.Waits rest →
    (busOffset addr = 0x00C → decode w = .ok i →
      ∃ t, exec i (Spec.issued s w rest) = .next t ∧
        (s.host = ⟨early, .write addr w⟩ :: ⟨true, .read a⟩ :: rest →
          (busOffset a = 0x008 →
            step s = .next { t with reads := (a, (Spec.issued s w rest).statusWord) :: s.reads }) ∧
          (busOffset a = 0x000 → step s = .next { t with reads := (a, 0x53313833#32) :: s.reads }) ∧
          (busOffset a ≠ 0x008 → busOffset a ≠ 0x000 →
            step s = .next { t with haz := true, reads := (a, 0) :: s.reads })) ∧
        (s.host = ⟨early, .write addr w⟩ :: ⟨true, .write a v⟩ :: rest →
          (busOffset a = 0x004 → v.getLsbD 0 = false →
            step s = .next { t with ieDone := v.getLsbD 1, ieErr := v.getLsbD 2 }) ∧
          (busOffset a = 0x008 → step s = .next { t with haz := s.haz && !v.getLsbD 2 }) ∧
          (busOffset a ≠ 0x004 → busOffset a ≠ 0x008 → step s = .next { t with haz := true }))) ∧
    (Spec.StartsReset ops →
      let cleared : Machine.State := { State.reset with host := rest, reads := s.reads }
      (s.host = ops ++ ⟨true, .read a⟩ :: rest →
        (busOffset a = 0x008 → step s = .next { cleared with reads := (a, 1) :: s.reads }) ∧
        (busOffset a = 0x000 → step s = .next { cleared with reads := (a, 0x53313833#32) :: s.reads }) ∧
        (busOffset a ≠ 0x008 → busOffset a ≠ 0x000 →
          step s = .next { cleared with reads := (a, 0) :: s.reads })) ∧
      (s.host = ops ++ ⟨true, .write a v⟩ :: rest →
        (busOffset a = 0x004 → v.getLsbD 0 = false →
          step s = .next { cleared with ieDone := v.getLsbD 1, ieErr := v.getLsbD 2 }) ∧
        (busOffset a = 0x004 → v.getLsbD 0 = true → step s = .next cleared) ∧
        (busOffset a ≠ 0x004 → step s = .next cleared)))

/-- R250, R251: a power-on or soft reset, made while BUSY = 0 or inside a command, which it aborts, leaves every item at
its reset value whatever the state before, and keeps only the host's own accesses, pending and made (assumption log
6). That enables written together with SRST are lost is read from R251 (assumption log 5, DEDUCED), and that a step
holds a reset inside a command is the model's choice (assumption log 2). -/
def Obligations.ResetRestoresEveryItem : Prop :=
  ∀ (s : Machine.State) (early : Bool) (addr w : Word) (e : HostEvent) (rest : List HostOp),
    Spec.Sound s → Spec.IsReset e → Spec.Waits rest →
    (s.host = ⟨early, e⟩ :: rest ∨
      (busOffset addr = 0x00C ∧ s.host = ⟨early, .write addr w⟩ :: ⟨true, e⟩ :: rest)) →
    step s = .next { State.reset with host := rest, reads := s.reads }

/-- R251: after reset every bus word reads 0 but ID, which reads 0x53313833, and REMAP6, which reads 0x00543210; IRQ
is low. -/
def Obligations.ResetBusValues : Prop :=
  (∀ off, State.reset.busRead off =
    if off = 0x000 then 0x53313833#32 else if off = 0x04C then 0x00543210#32 else 0) ∧
  State.reset.irq = false

/-- R236: "No state is stuck". From a state as the rules leave it, no run of any length, whatever the host does, meets a
fault or a refusal, and every state it passes through is such a state. The faults are the model's for what no rule
produces (assumption log 11). -/
def Obligations.RunNeverStops : Prop :=
  ∀ (k : Nat) (s : Machine.State), StatusInv s → ∃ t : Machine.State, Sys2Proof.core.run k s = .next t ∧ StatusInv t

/-- R61-R64, R233: with no access pending the core keeps all state; a read changes nothing but the host's record of it; a
host write while BUSY = 0 that is neither a CMD write nor a reset: in the BBUF and COEF windows and the
6144 words of each PCM channel it stores its four bytes, little-endian, and a read returns the value; at ARG0-ARG2 it
stores the value; at CTRL it sets the enables; at STATUS it clears DONE and HAZ where it has a 1; anywhere else (RO or
unmapped) it is ignored. The host's list and record are the model's own (assumption logs 1 and 6). -/
def Obligations.HostAccessEffects : Prop :=
  ∀ (s : Machine.State) (early : Bool) (addr v : Word) (rest : List HostOp), Spec.Sound s →
    (s.host = [] → step s = .next s) ∧
    (s.host = ⟨early, .read addr⟩ :: rest →
      step s = .next { s with host := rest, reads := (addr, s.busRead (busOffset addr)) :: s.reads }) ∧
    (s.host = ⟨early, .write addr v⟩ :: rest →
      (Spec.RamWindow (busOffset addr) → ∃ u, step s = .next u ∧ u = { s with host := rest, mem := u.mem } ∧
        (∀ k, k < 4 → readByte u.mem (busOffset addr + k) = v.extractLsb' (8 * k) 8) ∧
        (∀ a, a < busOffset addr ∨ busOffset addr + 4 ≤ a → Spec.SameByte s u a) ∧
        u.busRead (busOffset addr) = v) ∧
      (busOffset addr = 0x010 → step s = .next { s with host := rest, arg0 := v }) ∧
      (busOffset addr = 0x014 → step s = .next { s with host := rest, arg1 := v }) ∧
      (busOffset addr = 0x018 → step s = .next { s with host := rest, arg2 := v }) ∧
      (busOffset addr = 0x004 → v.getLsbD 0 = false →
        step s = .next { s with host := rest, ieDone := v.getLsbD 1, ieErr := v.getLsbD 2 }) ∧
      (busOffset addr = 0x008 →
        step s = .next { s with host := rest, done := s.done && !v.getLsbD 1, haz := s.haz && !v.getLsbD 2 }) ∧
      (¬Spec.RamWindow (busOffset addr) →
        busOffset addr ∉ [0x004, 0x008, 0x00C, 0x010, 0x014, 0x018] → step s = .next { s with host := rest }))

/-- R24, R227: the bits of STATUS as the host reads it, and the interrupt line. -/
def Obligations.StatusBitsAndIrq : Prop :=
  ∀ s : Machine.State,
    ((s.busRead 0x008).getLsbD 0 = s.busy ∧ (s.busRead 0x008).getLsbD 1 = s.done ∧
      (s.busRead 0x008).getLsbD 2 = s.haz ∧ (s.busRead 0x008).getLsbD 3 = false ∧
      (s.busRead 0x008).extractLsb' 4 4 = s.err ∧ (s.busRead 0x008).getLsbD 8 = s.configured ∧
      ∀ k, 9 ≤ k → (s.busRead 0x008).getLsbD k = false) ∧
    ((s.busRead 0x004).getLsbD 0 = false ∧ (s.busRead 0x004).getLsbD 1 = s.ieDone ∧
      (s.busRead 0x004).getLsbD 2 = s.ieErr ∧ ∀ k, 3 ≤ k → (s.busRead 0x004).getLsbD k = false) ∧
    (s.irq = true ↔ (s.done = true ∧ s.ieDone = true) ∨ ((s.err ≠ 0 ∨ s.haz = true) ∧ s.ieErr = true))

/-- R22, R25-R38, R40-R43, R61, R64: what a host read returns at each offset of the map while BUSY = 0. Registers: narrow
fields zero-extended, QSTEP, QMOD, MAXSF and SF sign-extended. RAMs: a BBUF word holds its four bytes, the lowest
address in bits [7:0]; a COEF or PCM word its element; an OUT word sample 2w in bits [15:0] and 2w+1 in bits [31:16].
The reserved words inside the register blocks and the holes of the map read 0. -/
def Obligations.BusReadsTheRegisterMap : Prop :=
  ∀ s : Machine.State,
    (s.busRead 0x000 = 0x53313833#32 ∧ s.busRead 0x00C = s.lastCmd ∧ s.busRead 0x010 = s.arg0 ∧
      s.busRead 0x014 = s.arg1 ∧ s.busRead 0x018 = s.arg2 ∧ s.busRead 0x01C = 0 ∧ s.busRead 0x020 = s.res0 ∧
      s.busRead 0x03C = 0 ∧ s.busRead 0x024 = s.res1 ∧ s.busRead 0x028 = s.errCmd ∧ s.busRead 0x02C = s.errInfo ∧
      (s.busRead 0x030).toNat = s.brStart.toNat ∧ (s.busRead 0x034).toNat = s.brLen.toNat ∧
      (s.busRead 0x038).toNat = s.brPos.toNat ∧ (s.busRead 0x040).toNat = s.cfgNch.toNat ∧
      (s.busRead 0x044).toNat = s.cfgSpf.toNat ∧ (s.busRead 0x048).toNat = s.cfgMaxsub.toNat ∧
      (s.busRead 0x04C).toNat = s.remap6.toNat ∧ (s.busRead 0x050).toNat = s.subN.toNat ∧
      (s.busRead 0x054).toNat = s.subOff.toNat ∧ (s.busRead 0x058).toNat % 2 ^ 31 = s.subNb.toNat ∧
      (s.busRead 0x058).getLsbD 31 = s.subValid ∧ (s.busRead 0x05C).toInt = s.qstep.toInt) ∧
    (∀ c : BitVec 3,
      (s.busRead (0x100 + 0x20 * c.toNat)).toNat = (s.channel c).prevLen.toNat ∧
      (s.busRead (0x104 + 0x20 * c.toNat)).toInt = (s.channel c).qmod.toInt ∧
      (s.busRead (0x108 + 0x20 * c.toNat)).toNat = (s.channel c).sfstep.toNat ∧
      (s.busRead (0x10C + 0x20 * c.toNat)).toInt = (s.channel c).maxsf.toInt ∧
      ∀ b, b < 32 → (s.busRead (0x400 + 0x80 * c.toNat + 4 * b)).toInt = ((s.channel c).sf.getD b 0).toInt) ∧
    (∀ w, w < 0x4000 →
      (∀ k, k < 4 → (s.busRead (0x10000 + 4 * w)).extractLsb' (8 * k) 8 = readByte s.mem (0x10000 + 4 * w + k)) ∧
      (s.busRead (0x80000 + 4 * w)).extractLsb' 0 16 = out s.mem (2 * w) ∧
      (s.busRead (0x80000 + 4 * w)).extractLsb' 16 16 = out s.mem (2 * w + 1)) ∧
    (∀ c i, c < 8 →
      (i < 4096 → s.busRead (0x20000 + 0x4000 * c + 4 * i) = coef s.mem c i) ∧
      (i < 6144 → s.busRead (0x40000 + 0x8000 * c + 4 * i) = pcm s.mem c i)) ∧
    (∀ b, b ≤ 32 → (s.busRead (0x200 + 4 * b)).toNat = s.bound b) ∧
    (∀ g : BitVec 3,
      s.busRead (0x300 + 0x20 * g.toNat) = (s.group g).ch ∧
      (s.busRead (0x304 + 0x20 * g.toNat)).toNat =
        (s.group g).size.toNat + (if (s.group g).offscale then 256 else 0) ∧
      s.busRead (0x308 + 0x20 * g.toNat) = (s.group g).mask ∧
      (s.busRead (0x30C + 0x20 * g.toNat)).toNat = (s.group g).sgn.toNat ∧
      (∀ k, k < 28 → (s.busRead (0x800 + 0x80 * g.toNat + 4 * k)).toNat = ((s.group g).ang.getD k 0).toNat) ∧
      ∀ i j, i < 8 → j < 8 →
        s.busRead (0x1000 + 0x100 * g.toNat + 0x20 * i + 4 * j) = matGet (s.group g).mat i j) ∧
    (∀ t : BitVec 4, (s.busRead (0x2000 + 4 * t.toNat)).toNat =
      (s.table t).state.toNat + 2 ^ 8 * (s.table t).maxlen.toNat + 2 ^ 16 * (s.table t).count.toNat) ∧
    (∀ off, (0x060 ≤ off ∧ off < 0x100) ∨ (0x100 ≤ off ∧ off < 0x200 ∧ 0x10 ≤ off % 0x20) ∨
      (0x284 ≤ off ∧ off < 0x300) ∨ (0x300 ≤ off ∧ off < 0x400 ∧ 0x10 ≤ off % 0x20) ∨
      (0x800 ≤ off ∧ off < 0xC00 ∧ 4 * 28 ≤ off % 0x80) → s.busRead off = 0) ∧
    ∀ off, (0xC00 ≤ off ∧ off < 0x1000) ∨ (0x1800 ≤ off ∧ off < 0x2000) ∨ (0x2040 ≤ off ∧ off < 0x10000) ∨
      0x90000 ≤ off ∨ (0x40000 ≤ off ∧ off < 0x80000 ∧ ¬Spec.RamWindow off) → s.busRead off = 0

/-! Errors (R220-R226). -/

/-- R223: while an error is latched, a CMD write of any word but ERR_CLR's only issues and completes; ERR_CLR's clears
the latch. -/
def Obligations.ErrorLock : Prop :=
  ∀ (s : Machine.State) (early : Bool) (addr w : Word) (rest : List HostOp),
    Spec.Sound s → s.err ≠ 0 → s.host = ⟨early, .write addr w⟩ :: rest → busOffset addr = 0x00C →
    Spec.Waits rest →
    (w ≠ 0x3D000000#32 → step s = .next (Spec.finished (Spec.issued s w rest))) ∧
    (w = 0x3D000000#32 → step s = .next
      (Spec.finished { Spec.issued s w rest with err := 0, errCmd := 0, errInfo := 0 }))

/-- R220, R224: "errors are precise". When a CMD write ends with an error that was not there, the state is the issued one with
the latch written and the command completed: ERR the code, ERR_CMD the command word, ERR_INFO the information. The
code is one R220 allows the command, and 4 for a word that is no command. -/
def Obligations.ErrorsArePrecise : Prop :=
  ∀ (s u : Machine.State) (early : Bool) (addr w : Word) (rest : List HostOp),
    Spec.Sound s → s.err = 0 → s.host = ⟨early, .write addr w⟩ :: rest → busOffset addr = 0x00C →
    Spec.Waits rest → step s = .next u → u.err ≠ 0 →
    ∃ code info, u = Spec.raised (Spec.issued s w rest) code info ∧ u.errCmd = w ∧
      ((∃ i, decode w = .ok i ∧ code ∈ Spec.errorCodes i) ∨ ((∀ i, decode w ≠ .ok i) ∧ code = 4))

/-- R84, R85: before CFG every command of the table's "Needs CFG" column raises NOT_READY with ERR_INFO 1. -/
def Obligations.NotReadyBeforeCfg : Prop :=
  ∀ (s : Machine.State) (i : Instr), s.err = 0 → s.configured = false → Spec.needsCfg i = true →
    exec i s = .next (Spec.raised s 6 1)

/-- R130, R159: a command that names a channel that does not exist raises ILLEGAL_CMD with ERR_INFO 3; a matrix command
on a group that is not set raises NOT_READY with ERR_INFO 3. -/
def Obligations.ChannelAndGroupErrors : Prop :=
  ∀ (s : Machine.State) (i : Instr), Spec.Ready s →
    (∀ c, Spec.channelOf i = some c → s.cfgNch.toNat ≤ c.toNat → exec i s = .next (Spec.raised s 4 3)) ∧
    (∀ g, Spec.groupOf i = some g → (s.group g).size = 0 → exec i s = .next (Spec.raised s 6 3))

/-! Frames: who writes what (R21-R43). -/

/-- R24, R26, R40: every command ends with BUSY 0 and DONE 1 and writes none of LASTCMD, ARG0-ARG2, HAZ, CTRL, the
host's list and record, and BBUF. -/
def Obligations.NoCommandWritesHostSide : Prop :=
  ∀ (s u : Machine.State) (i : Instr), exec i s = .next u →
    u.busy = false ∧ u.done = true ∧ u.lastCmd = s.lastCmd ∧ u.arg0 = s.arg0 ∧ u.arg1 = s.arg1 ∧
    u.arg2 = s.arg2 ∧ u.haz = s.haz ∧ u.ieDone = s.ieDone ∧ u.ieErr = s.ieErr ∧ u.host = s.host ∧
    u.reads = s.reads ∧ ∀ a, a < 0x20000 → Spec.SameByte s u a

/-- R27, R29-R38: the "Only … writes" sentences of the register file. Each register is written by the commands its rule
names and by no other. -/
def Obligations.OnlyTheirCommandsWriteRegisters : Prop :=
  ∀ (s u : Machine.State) (i : Instr), exec i s = .next u →
    (u.res0 ≠ s.res0 → (∃ n, i = .brRead n ∨ i = .brPeek n) ∨ i = .brTell ∨ ∃ t, i = .brVlc t) ∧
    (u.res1 ≠ s.res1 → ∃ t, i = .brVlc t) ∧
    (u.brStart ≠ s.brStart ∨ u.brLen ≠ s.brLen → i = .brInit) ∧
    (u.brPos ≠ s.brPos → i = .brInit ∨ (∃ n, i = .brRead n ∨ i = .brSkip n) ∨ ∃ t, i = .brVlc t) ∧
    (u.cfgNch ≠ s.cfgNch ∨ u.cfgSpf ≠ s.cfgSpf ∨ u.cfgMaxsub ≠ s.cfgMaxsub ∨ u.configured ≠ s.configured →
      i = .cfg) ∧
    (u.remap6 ≠ s.remap6 → i = .remapSet) ∧
    (u.subN ≠ s.subN ∨ u.subOff ≠ s.subOff ∨ u.subNb ≠ s.subNb ∨ u.subValid ≠ s.subValid →
      i = .cfg ∨ ∃ nb, i = .subSet nb) ∧
    (u.qstep ≠ s.qstep → i = .cfg ∨ i = .qsSet) ∧
    (u.sfb ≠ s.sfb → i = .cfg ∨ ∃ b, i = .sfbSet b) ∧
    (∀ c, (u.channel c).prevLen ≠ (s.channel c).prevLen → i = .cfg ∨ i = .window c ∨ i = .prevSet c) ∧
    (∀ c, (u.channel c).qmod ≠ (s.channel c).qmod ∨ (u.channel c).sfstep ≠ (s.channel c).sfstep ∨
      (u.channel c).maxsf ≠ (s.channel c).maxsf → i = .cfg ∨ i = .chQset c) ∧
    (∀ c, (u.channel c).sf ≠ (s.channel c).sf → i = .cfg ∨ ∃ b, i = .sfSet c b) ∧
    (∀ g, (u.group g).ch ≠ (s.group g).ch ∨ (u.group g).size ≠ (s.group g).size ∨
      (u.group g).offscale ≠ (s.group g).offscale ∨ (u.group g).mask ≠ (s.group g).mask →
      i = .cfg ∨ i = .grpSet g) ∧
    (∀ g, (u.group g).sgn ≠ (s.group g).sgn → i = .cfg ∨ i = .grpSet g ∨ ∃ sg, i = .mxSigns g sg) ∧
    (∀ g, (u.group g).ang ≠ (s.group g).ang → i = .cfg ∨ i = .grpSet g ∨ ∃ k a, i = .mxAng g k a) ∧
    (∀ g, (u.group g).mat ≠ (s.group g).mat → i = .cfg ∨ i = .grpSet g ∨ i = .mxIdent g ∨ i = .mxMs45 g ∨
      (∃ x y, i = .mxWrite g x y) ∨ i = .mxRot g) ∧
    (∀ t, u.table t ≠ s.table t → (∃ m, i = .vlcBegin t m) ∨ i = .vlcAdd t ∨ i = .vlcEnd t) ∧
    (u.vlcRam ≠ s.vlcRam → ∃ t, i = .vlcAdd t)

/-- R41-R43, R204 (L4): a byte of memory that a command changes is a byte of COEF (COEF_CLR, MX_APPLY, DEQUANT, CFG), of
PCM (IMDCT, WINDOW, PCM_ZERO, OUT_EMIT, CFG) or of OUT (OUT_EMIT, CFG). The premises rule out states no run reaches,
where a boundary or a length is larger than its RAM. -/
def Obligations.OnlyTheirCommandsWriteRams : Prop :=
  ∀ (s u : Machine.State) (i : Instr) (a : Nat), ConfigInv s → GroupInv s → exec i s = .next u →
    ¬Spec.SameByte s u a →
    (0x20000 ≤ a ∧ a < 0x40000 ∧ (i = .cfg ∨ (∃ c, i = .coefClr c ∨ i = .dequant c) ∨ ∃ g, i = .mxApply g)) ∨
    (0x40000 ≤ a ∧ a < 0x80000 ∧
      (i = .cfg ∨ i = .outEmit ∨ ∃ c, i = .imdct c ∨ i = .window c ∨ i = .pcmZero c)) ∨
    (0x80000 ≤ a ∧ a < 0x90000 ∧ (i = .cfg ∨ i = .outEmit))

/-! Bit reader (R100-R105, R110). -/

/-- R101: BR_INIT sets the window (S, L) = (ARG0, ARG1), computed without wrap, and the cursor to 0; a window past the
end of BBUF raises ILLEGAL_CMD(3). -/
def Obligations.BrInitSetsWindow : Prop :=
  decode 0x01000000#32 = .ok .brInit ∧
  ∀ s : Machine.State, s.err = 0 →
    (s.arg0.toNat + s.arg1.toNat ≤ 524288 →
      ∃ u, exec .brInit s = .next u ∧
        u = Spec.finished { s with brStart := u.brStart, brLen := u.brLen, brPos := 0 } ∧
        u.brStart.toNat = s.arg0.toNat ∧ u.brLen.toNat = s.arg1.toNat) ∧
    (524288 < s.arg0.toNat + s.arg1.toNat → exec .brInit s = .next (Spec.raised s 4 3))

/-- R100, R102, R103: BR_READ and BR_PEEK put the next n bits of the window, first bit read most significant, into RES0;
BR_READ moves the cursor by n and BR_PEEK does not; n above 32 raises ILLEGAL_CMD(3), and fewer than n bits left
OUT_OF_DATA with the cursor. -/
def Obligations.ReadAndPeekReturnTheNextBits : Prop :=
  (∀ n, n < 64 → decode (0x02000000#32 + BitVec.ofNat 32 n) = .ok (.brRead n) ∧
    decode (0x03000000#32 + BitVec.ofNat 32 n) = .ok (.brPeek n)) ∧
  ∀ (s : Machine.State) (n : Nat), s.err = 0 →
    (n ≤ 32 → s.brPos.toNat + n ≤ s.brLen.toNat →
      (∃ u, exec (.brRead n) s = .next u ∧
        u = Spec.finished { s with res0 := u.res0, brPos := u.brPos } ∧
        u.brPos.toNat = s.brPos.toNat + n ∧ Spec.IsBits s n u.res0) ∧
      (∃ u, exec (.brPeek n) s = .next u ∧ u = Spec.finished { s with res0 := u.res0 } ∧
        Spec.IsBits s n u.res0)) ∧
    (n ≤ 32 → s.brLen.toNat < s.brPos.toNat + n →
      exec (.brRead n) s = .next (Spec.raised s 1 (s.brPos.setWidth 32)) ∧
      exec (.brPeek n) s = .next (Spec.raised s 1 (s.brPos.setWidth 32))) ∧
    (32 < n → exec (.brRead n) s = .next (Spec.raised s 4 3) ∧ exec (.brPeek n) s = .next (Spec.raised s 4 3))

/-- R104: BR_SKIP n moves the cursor by n, or raises OUT_OF_DATA with the cursor when fewer than n bits are left; n = 0
always succeeds and moves nothing. -/
def Obligations.SkipMovesTheCursor : Prop :=
  (∀ n, n < 2 ^ 20 → decode (0x04000000#32 + BitVec.ofNat 32 n) = .ok (.brSkip n)) ∧
  ∀ (s : Machine.State) (n : Nat), s.err = 0 →
    (s.brPos.toNat + n ≤ s.brLen.toNat →
      ∃ u, exec (.brSkip n) s = .next u ∧ u = Spec.finished { s with brPos := u.brPos } ∧
        u.brPos.toNat = s.brPos.toNat + n) ∧
    (s.brLen.toNat < s.brPos.toNat + n →
      exec (.brSkip n) s = .next (Spec.raised s 1 (s.brPos.setWidth 32))) ∧
    (BitReaderInv s → exec (.brSkip 0) s = .next (Spec.finished s))

/-- R105: BR_TELL puts the cursor, zero-extended, into RES0. -/
def Obligations.TellReturnsTheCursor : Prop :=
  decode 0x05000000#32 = .ok .brTell ∧
  ∀ s : Machine.State, s.err = 0 →
    ∃ u, exec .brTell s = .next u ∧ u = Spec.finished { s with res0 := u.res0 } ∧
      u.res0.toNat = s.brPos.toNat

/-- R110 (L1, L2, L3): BR_READ a then BR_READ b leave the cursor where one BR_READ (a+b) does, which gives (x << b) | y;
BR_PEEK n then BR_SKIP n end in the state BR_READ n ends in; BR_TELL after BR_READ n gives the old cursor plus n. -/
def Obligations.ReadLaws : Prop :=
  (∀ (s : Machine.State) (a b : Nat), s.err = 0 → a + b ≤ 32 → s.brPos.toNat + a + b ≤ s.brLen.toNat →
    ∃ u v w, exec (.brRead a) s = .next u ∧ exec (.brRead b) u = .next v ∧ exec (.brRead (a + b)) s = .next w ∧
      w.brPos = v.brPos ∧ w.res0 = (u.res0 <<< b) ||| v.res0) ∧
  (∀ (s : Machine.State) (n : Nat), s.err = 0 → n ≤ 32 → s.brPos.toNat + n ≤ s.brLen.toNat →
    ∃ u v t, exec (.brPeek n) s = .next u ∧ exec (.brSkip n) u = .next v ∧ exec (.brRead n) s = .next v ∧
      exec .brTell v = .next t ∧ t.res0.toNat = s.brPos.toNat + n)

/-- R100, R110 (L5): no bit-reader or VLC command reads BBUF outside the window. Change memory anywhere but in the bits
p < BR_LEN of the window and each of them still does the same. -/
def Obligations.BitReaderReadsOnlyTheWindow : Prop :=
  ∀ (s u : Machine.State) (m : Memory) (i : Instr), Spec.isBitCommand i = true →
    (∀ p, p < s.brLen.toNat → Spec.bit s p = Spec.bit { s with mem := m } p) →
    exec i s = .next u → exec i { s with mem := m } = .next { u with mem := m }

/-! VLC tables (R106-R109). -/

/-- R107: VLC_BEGIN makes table t BUILDING with MAXLEN maxlen and COUNT 0, in any state of the table, and changes no
other table and no entry; maxlen outside 1..32 raises ILLEGAL_CMD(3). -/
def Obligations.VlcBeginStartsATable : Prop :=
  (∀ (t : BitVec 4) (l : BitVec 6), decode (0x08000000#32 + t.setWidth 32 + l.setWidth 32 <<< 8) =
    .ok (.vlcBegin t l.toNat)) ∧
  ∀ (s : Machine.State) (t : BitVec 4) (maxlen : Nat), s.err = 0 →
    (1 ≤ maxlen → maxlen ≤ 32 →
      ∃ u, exec (.vlcBegin t maxlen) s = .next u ∧ u = Spec.finished { s with vlc := u.vlc } ∧
        (u.table t).state = 1 ∧ (u.table t).maxlen.toNat = maxlen ∧ (u.table t).count = 0 ∧
        (∀ t', t' ≠ t → u.table t' = s.table t') ∧ ∀ t' e, u.vlcEntry t' e = s.vlcEntry t' e) ∧
    (maxlen < 1 ∨ 32 < maxlen → exec (.vlcBegin t maxlen) s = .next (Spec.raised s 4 3))

/-- R108: VLC_ADD appends (ARG0, ARG1[5:0], ARG1[31:16]) to a BUILDING table and changes no other entry; a table that is
not BUILDING, and a bad entry or a full table, raise TABLE_INVALID. -/
def Obligations.VlcAddAppendsAnEntry : Prop :=
  (∀ t : BitVec 4, decode (0x09000000#32 + t.setWidth 32) = .ok (.vlcAdd t)) ∧
  ∀ (s : Machine.State) (t : BitVec 4), s.err = 0 →
    let len := s.arg1.toNat % 64
    ((s.table t).state = 1 → 1 ≤ len → len ≤ (s.table t).maxlen.toNat → s.arg0.toNat < 2 ^ len →
      (s.table t).count.toNat < 512 →
      ∃ u, exec (.vlcAdd t) s = .next u ∧ u = Spec.finished { s with vlc := u.vlc, vlcRam := u.vlcRam } ∧
        (u.table t).state = 1 ∧ (u.table t).maxlen = (s.table t).maxlen ∧
        (u.table t).count.toNat = (s.table t).count.toNat + 1 ∧
        (∀ t', t' ≠ t → u.table t' = s.table t') ∧
        (u.vlcEntry t (s.table t).count.toNat).code = s.arg0 ∧
        (u.vlcEntry t (s.table t).count.toNat).len.toNat = len ∧
        (u.vlcEntry t (s.table t).count.toNat).sym.toNat = s.arg1.toNat / 65536 ∧
        ∀ t' e, e < 512 → t' ≠ t ∨ e ≠ (s.table t).count.toNat → u.vlcEntry t' e = s.vlcEntry t' e) ∧
    ((s.table t).state ≠ 1 →
      exec (.vlcAdd t) s = .next (Spec.raised s 5 (BitVec.ofNat 32 (0x100 + t.toNat)))) ∧
    ((s.table t).state = 1 →
      len < 1 ∨ (s.table t).maxlen.toNat < len ∨ 2 ^ len ≤ s.arg0.toNat ∨ (s.table t).count.toNat = 512 →
      exec (.vlcAdd t) s = .next (Spec.raised s 5 (BitVec.ofNat 32 (0x200 + t.toNat))))

/-- R109: VLC_END makes a BUILDING table VALID exactly when it has an entry and no code is a prefix of another; otherwise
it raises TABLE_INVALID and the table stays as it is. -/
def Obligations.VlcEndChecksPrefixFreedom : Prop :=
  (∀ t : BitVec 4, decode (0x0A000000#32 + t.setWidth 32) = .ok (.vlcEnd t)) ∧
  ∀ (s : Machine.State) (t : BitVec 4), s.err = 0 →
    ((s.table t).state = 1 → (s.table t).count ≠ 0 → PrefixFreeTable s t →
      ∃ u, exec (.vlcEnd t) s = .next u ∧ u = Spec.finished { s with vlc := u.vlc } ∧
        u.table t = { s.table t with state := 2 } ∧ ∀ t', t' ≠ t → u.table t' = s.table t') ∧
    ((s.table t).state = 1 → (s.table t).count = 0 ∨ ¬PrefixFreeTable s t →
      exec (.vlcEnd t) s = .next (Spec.raised s 5 (BitVec.ofNat 32 (0x300 + t.toNat)))) ∧
    ((s.table t).state ≠ 1 →
      exec (.vlcEnd t) s = .next (Spec.raised s 5 (BitVec.ofNat 32 (0x100 + t.toNat))))

/-- R106: BR_VLC on a VALID, prefix-free table returns the symbol and length of the one entry whose code is the bits at the
cursor and moves the cursor past it, even when fewer than MAXLEN bits are left; with no such entry it raises
OUT_OF_DATA when fewer than MAXLEN bits are left and VLC_NO_MATCH otherwise; on a table that is not VALID,
TABLE_INVALID. -/
def Obligations.BrVlcDecodesTheMatchingCode : Prop :=
  (∀ t : BitVec 4, decode (0x06000000#32 + t.setWidth 32) = .ok (.brVlc t)) ∧
  ∀ (s : Machine.State) (t : BitVec 4), s.err = 0 →
    ((s.table t).state = 2 → PrefixFreeTable s t → ∀ e, e < (s.table t).count.toNat →
      1 ≤ (s.vlcEntry t e).len.toNat → (s.vlcEntry t e).len.toNat ≤ (s.table t).maxlen.toNat →
      (s.vlcEntry t e).len.toNat ≤ Spec.bitsLeft s → Spec.CodeMatches s (s.vlcEntry t e) →
      ∃ u, exec (.brVlc t) s = .next u ∧
        u = Spec.finished { s with res0 := u.res0, res1 := u.res1, brPos := u.brPos } ∧
        u.res0.toNat = (s.vlcEntry t e).sym.toNat ∧ u.res1.toNat = (s.vlcEntry t e).len.toNat ∧
        u.brPos.toNat = s.brPos.toNat + (s.vlcEntry t e).len.toNat) ∧
    ((s.table t).state = 2 →
      (∀ e, e < (s.table t).count.toNat → 1 ≤ (s.vlcEntry t e).len.toNat →
        (s.vlcEntry t e).len.toNat ≤ (s.table t).maxlen.toNat →
        (s.vlcEntry t e).len.toNat ≤ Spec.bitsLeft s → ¬Spec.CodeMatches s (s.vlcEntry t e)) →
      (Spec.bitsLeft s < (s.table t).maxlen.toNat →
        exec (.brVlc t) s = .next (Spec.raised s 1 (s.brPos.setWidth 32))) ∧
      ((s.table t).maxlen.toNat ≤ Spec.bitsLeft s →
        exec (.brVlc t) s = .next (Spec.raised s 2 (s.brPos.setWidth 32)))) ∧
    ((s.table t).state ≠ 2 →
      exec (.brVlc t) s = .next (Spec.raised s 5 (BitVec.ofNat 32 (0x100 + t.toNat))))

/-! Configuration and subframe context (R131-R142). -/

/-- R131, R134: NOP only completes, locked or not; its word is 0 and no other word is a NOP, 0x00000001 having a reserved
bit set and raising ILLEGAL_CMD(2). ERR_CLR clears ERR, ERR_CMD and ERR_INFO, even while the lock holds, and changes
nothing else but DONE; it is the only command the lock does not drop. -/
def Obligations.NopAndErrClr : Prop :=
  (∀ w, decode w = .ok .nop ↔ w = 0) ∧ decode 0x00000001#32 = .error .reservedBits ∧
  decode 0x3D000000#32 = .ok .errClr ∧
  ∀ s : Machine.State, exec .nop s = .next (Spec.finished s) ∧
    (s.err = 0 → runWord 0x00000001#32 s = .next (Spec.raised s 4 2)) ∧
    exec .errClr s = .next (Spec.finished { s with err := 0, errCmd := 0, errInfo := 0 }) ∧
    ∀ i, s.err ≠ 0 → i ≠ .errClr → exec i s = .next (Spec.finished s)

/-- R132: CFG stores a legal configuration, sets CONFIGURED and clears all per-stream state: every channel's registers
(PREV_LEN to SPF), every group, SFB, the subframe context, QSTEP, and every byte of COEF, PCM and OUT; BBUF and every
register not named here are unchanged. An illegal one raises ILLEGAL_CMD(3). -/
def Obligations.CfgStartsAStream : Prop :=
  decode 0x3F000000#32 = .ok .cfg ∧
  ∀ s : Machine.State, s.err = 0 →
    (Spec.LegalCfg s.arg0.toNat s.arg1.toNat s.arg2.toNat →
      ∃ u, exec .cfg s = .next u ∧
        u = Spec.finished { s with
          cfgNch := u.cfgNch, cfgSpf := u.cfgSpf, cfgMaxsub := u.cfgMaxsub, configured := true,
          chan := u.chan, grp := u.grp, sfb := u.sfb, subN := 0, subOff := 0, subNb := 0, subValid := false,
          qstep := 0, mem := u.mem } ∧
        u.cfgNch.toNat = s.arg0.toNat ∧ u.cfgSpf.toNat = s.arg1.toNat ∧ u.cfgMaxsub.toNat = s.arg2.toNat ∧
        (∀ c, (u.channel c).prevLen = u.cfgSpf ∧ (u.channel c).qmod = 0 ∧ (u.channel c).sfstep = 0 ∧
          (u.channel c).maxsf = 0 ∧ ∀ b, b < 32 → (u.channel c).sf.getD b 0 = 0) ∧
        (∀ g, u.group g = Group.reset) ∧ (∀ b, u.bound b = 0) ∧
        (∀ a, 0x20000 ≤ a → InRam a → readByte u.mem a = 0) ∧
        ∀ a, a < 0x20000 ∨ ¬InRam a → Spec.SameByte s u a) ∧
    (¬Spec.LegalCfg s.arg0.toNat s.arg1.toNat s.arg2.toNat → exec .cfg s = .next (Spec.raised s 4 3))

/-- R133: REMAP_SET stores ARG0[23:0] when its six nibbles are a permutation of 0..5, ignoring ARG0[31:24], and raises
ILLEGAL_CMD(3) when some slot number 0..5 is missing among them. -/
def Obligations.RemapSetTakesPermutations : Prop :=
  decode 0x3C000000#32 = .ok .remapSet ∧
  ∀ s : Machine.State, s.err = 0 →
    ((∀ k, k < 6 → ∃ j, j < 6 ∧ Spec.argMember s j = k) →
      exec .remapSet s = .next (Spec.finished { s with remap6 := s.arg0.extractLsb' 0 24 })) ∧
    ((∃ k, k < 6 ∧ ∀ j, j < 6 → Spec.argMember s j ≠ k) → exec .remapSet s = .next (Spec.raised s 4 3))

/-- R136: SUB_SET stores N, OFF and NB and sets VALID; NB outside 1..32 raises MALFORMED(2); N not a power of two or
outside [CFG_SPF / CFG_MAXSUB, CFG_SPF], or a subframe past the frame's end, raises MALFORMED(1). -/
def Obligations.SubSetChecksTheSubframe : Prop :=
  (∀ n, n < 64 → decode (0x20000000#32 + BitVec.ofNat 32 n) = .ok (.subSet n)) ∧
  ∀ (s : Machine.State) (nb : Nat), Spec.Ready s →
    let n := s.arg0.toNat
    let lengthOk := Spec.Pow2 n ∧ s.cfgSpf.toNat / s.cfgMaxsub.toNat ≤ n ∧ n ≤ s.cfgSpf.toNat ∧
      s.arg1.toNat + n ≤ s.cfgSpf.toNat
    (1 ≤ nb → nb ≤ 32 → lengthOk →
      ∃ u, exec (.subSet nb) s = .next u ∧
        u = Spec.finished { s with subN := u.subN, subOff := u.subOff, subNb := u.subNb, subValid := true } ∧
        u.subN.toNat = n ∧ u.subOff.toNat = s.arg1.toNat ∧ u.subNb.toNat = nb) ∧
    (nb < 1 ∨ 32 < nb → exec (.subSet nb) s = .next (Spec.raised s 3 2)) ∧
    (1 ≤ nb → nb ≤ 32 → ¬lengthOk → exec (.subSet nb) s = .next (Spec.raised s 3 1))

/-- R137, R138: SFB_SET b stores the boundary ARG0 ≤ 4096 at b ≤ 32 and changes no other; QS_SET stores a signed 16-bit
ARG0, negative ones too; values out of range raise ILLEGAL_CMD(3). -/
def Obligations.SfbSetAndQsSetStore : Prop :=
  (∀ n, n < 64 → decode (0x21000000#32 + BitVec.ofNat 32 n) = .ok (.sfbSet n)) ∧
  decode 0x22000000#32 = .ok .qsSet ∧
  ∀ (s : Machine.State) (b : Nat), Spec.Ready s →
    (b ≤ 32 → s.arg0.toNat ≤ 4096 →
      ∃ u, exec (.sfbSet b) s = .next u ∧ u = Spec.finished { s with sfb := u.sfb } ∧
        u.bound b = s.arg0.toNat ∧ ∀ b', b' ≠ b → u.bound b' = s.bound b') ∧
    (32 < b ∨ 4096 < s.arg0.toNat → exec (.sfbSet b) s = .next (Spec.raised s 4 3)) ∧
    (-32768 ≤ s.arg0.toInt → s.arg0.toInt ≤ 32767 →
      ∃ u, exec .qsSet s = .next u ∧ u = Spec.finished { s with qstep := u.qstep } ∧
        u.qstep.toInt = s.arg0.toInt) ∧
    (s.arg0.toInt < -32768 ∨ 32767 < s.arg0.toInt → exec .qsSet s = .next (Spec.raised s 4 3))

/-- R139, R140, R142: on a channel that exists CH_QSET stores QMOD, SFSTEP and MAXSF, SF_SET stores SF[c][b] and PREV_SET
stores PREV_LEN[c], each leaving the channel's other registers and the other channels alone; values out of range and a
channel that does not exist raise ILLEGAL_CMD(3). -/
def Obligations.ChannelRegistersStore : Prop :=
  (∀ (c : BitVec 3) (b : BitVec 5), decode (0x23000000#32 + c.setWidth 32) = .ok (.chQset c) ∧
    decode (0x24000000#32 + c.setWidth 32 + b.setWidth 32 <<< 8) = .ok (.sfSet c b) ∧
    decode (0x2A000000#32 + c.setWidth 32) = .ok (.prevSet c)) ∧
  (∀ (s : Machine.State) (c : BitVec 3) (b : BitVec 5), Spec.Ready s → s.cfgNch.toNat ≤ c.toNat →
    exec (.chQset c) s = .next (Spec.raised s 4 3) ∧ exec (.sfSet c b) s = .next (Spec.raised s 4 3) ∧
    exec (.prevSet c) s = .next (Spec.raised s 4 3)) ∧
  ∀ (s : Machine.State) (c : BitVec 3) (b : BitVec 5), Spec.Ready s → c.toNat < s.cfgNch.toNat →
    let int16 := fun x : Word => -32768 ≤ x.toInt ∧ x.toInt ≤ 32767
    let prevOk := Spec.Pow2 s.arg0.toNat ∧ 128 ≤ s.arg0.toNat ∧ s.arg0.toNat ≤ s.cfgSpf.toNat
    (int16 s.arg0 → s.arg1.toNat ≤ 255 → int16 s.arg2 →
      ∃ u, exec (.chQset c) s = .next u ∧ u = Spec.finished { s with chan := u.chan } ∧
        (u.channel c).qmod.toInt = s.arg0.toInt ∧ (u.channel c).sfstep.toNat = s.arg1.toNat ∧
        (u.channel c).maxsf.toInt = s.arg2.toInt ∧ (u.channel c).prevLen = (s.channel c).prevLen ∧
        (u.channel c).sf = (s.channel c).sf ∧ Spec.OtherChannels s u c) ∧
    (¬int16 s.arg0 ∨ 255 < s.arg1.toNat ∨ ¬int16 s.arg2 → exec (.chQset c) s = .next (Spec.raised s 4 3)) ∧
    (int16 s.arg0 →
      ∃ u, exec (.sfSet c b) s = .next u ∧ u = Spec.finished { s with chan := u.chan } ∧
        ((u.channel c).sf.getD b.toNat 0).toInt = s.arg0.toInt ∧
        (∀ b', b' ≠ b.toNat → (u.channel c).sf.getD b' 0 = (s.channel c).sf.getD b' 0) ∧
        u.channel c = { s.channel c with sf := (u.channel c).sf } ∧ Spec.OtherChannels s u c) ∧
    (¬int16 s.arg0 → exec (.sfSet c b) s = .next (Spec.raised s 4 3)) ∧
    (prevOk →
      ∃ u, exec (.prevSet c) s = .next u ∧ u = Spec.finished { s with chan := u.chan } ∧
        (u.channel c).prevLen.toNat = s.arg0.toNat ∧
        u.channel c = { s.channel c with prevLen := (u.channel c).prevLen } ∧ Spec.OtherChannels s u c) ∧
    (¬prevOk → exec (.prevSet c) s = .next (Spec.raised s 4 3))

/-- R141: COEF_CLR c makes all 4096 coefficients of channel c +0.0 and changes no byte outside them; a channel that does
not exist raises ILLEGAL_CMD(3). -/
def Obligations.CoefClrZeroesTheChannel : Prop :=
  (∀ c : BitVec 3, decode (0x25000000#32 + c.setWidth 32) = .ok (.coefClr c)) ∧
  ∀ (s : Machine.State) (c : BitVec 3), Spec.Ready s →
    (c.toNat < s.cfgNch.toNat →
      ∃ u, exec (.coefClr c) s = .next u ∧ u = Spec.finished { s with mem := u.mem } ∧
        (∀ i, i < 4096 → coef u.mem c.toNat i = 0) ∧
        ∀ a, a < coefAddr c.toNat 0 ∨ coefAddr c.toNat 4096 ≤ a → Spec.SameByte s u a) ∧
    (s.cfgNch.toNat ≤ c.toNat → exec (.coefClr c) s = .next (Spec.raised s 4 3))

/-! Matrices (R159-R168). -/

/-- R160: GRP_SET g replaces everything about the group by its operands: SIZE, the members (0 above them), OFFSCALE and
the mask, with signs and angles 0 and the identity of the new size; a bad size, member or OFFSCALE raises
ILLEGAL_CMD(3). -/
def Obligations.GrpSetDefinesTheGroup : Prop :=
  (∀ g : BitVec 3, decode (0x10000000#32 + g.setWidth 32) = .ok (.grpSet g)) ∧
  ∀ (s : Machine.State) (g : BitVec 3), Spec.Ready s →
    let n := s.arg1.toNat % 16
    (Spec.LegalGroup s n →
      ∃ u, exec (.grpSet g) s = .next u ∧ u = Spec.finished { s with grp := u.grp } ∧
        (u.group g).count = n ∧ (∀ k, k < n → (u.group g).member k = Spec.argMember s k) ∧
        (∀ k, n ≤ k → (u.group g).member k = 0) ∧ (u.group g).offscale = s.arg1.getLsbD 8 ∧
        (u.group g).mask = s.arg2 ∧ (u.group g).sgn = 0 ∧ (∀ k, k < 28 → (u.group g).ang.getD k 0 = 0) ∧
        (∀ i j, i < 8 → j < 8 →
          matGet (u.group g).mat i j = if i = j ∧ i < n then 0x3F800000#32 else 0) ∧
        Spec.OtherGroups s u g) ∧
    (¬Spec.LegalGroup s n → exec (.grpSet g) s = .next (Spec.raised s 4 3))

/-- R161, R162: on a set group MX_IDENT writes the identity of its size, and on a 2-member group MX_MS45 writes
[[C45, −C45], [C45, C45]]; both leave +0.0 in every other entry and change nothing else; MX_MS45 on another size
raises ILLEGAL_CMD(3), and either on a group that is not set NOT_READY(3). -/
def Obligations.FixedMatrices : Prop :=
  (∀ g : BitVec 3, decode (0x11000000#32 + g.setWidth 32) = .ok (.mxIdent g) ∧
    decode (0x12000000#32 + g.setWidth 32) = .ok (.mxMs45 g)) ∧
  (∀ (s : Machine.State) (g : BitVec 3), Spec.Ready s → (s.group g).size = 0 →
    exec (.mxIdent g) s = .next (Spec.raised s 6 3) ∧ exec (.mxMs45 g) s = .next (Spec.raised s 6 3)) ∧
  ∀ (s : Machine.State) (g : BitVec 3), Spec.Ready s → (s.group g).size ≠ 0 →
    (∃ u, exec (.mxIdent g) s = .next u ∧ u = Spec.finished { s with grp := u.grp } ∧
      u.group g = { s.group g with mat := (u.group g).mat } ∧ Spec.OtherGroups s u g ∧
      ∀ i j, i < 8 → j < 8 →
        matGet (u.group g).mat i j = if i = j ∧ i < (s.group g).count then 0x3F800000#32 else 0) ∧
    ((s.group g).count = 2 →
      ∃ u, exec (.mxMs45 g) s = .next u ∧ u = Spec.finished { s with grp := u.grp } ∧
        u.group g = { s.group g with mat := (u.group g).mat } ∧ Spec.OtherGroups s u g ∧
        ∀ i j, i < 8 → j < 8 → matGet (u.group g).mat i j =
          if 2 ≤ i ∨ 2 ≤ j then 0 else if i = 0 ∧ j = 1 then 0xBF350000#32 else 0x3F350000#32) ∧
    ((s.group g).count ≠ 2 → exec (.mxMs45 g) s = .next (Spec.raised s 4 3))

/-- R163-R165: on a set group MX_WRITE stores ARG0's bits unchanged at row i, column j inside the group, MX_ANG stores an
angle code below n(n−1)/2 and MX_SIGNS stores sign bits of the group's members, each changing nothing else; a row,
column, index or sign outside the group raises ILLEGAL_CMD(3), and a group that is not set NOT_READY(3). -/
def Obligations.MatrixOperandsStore : Prop :=
  (∀ (g i j : BitVec 3) (k : BitVec 5) (a : BitVec 6) (sg : BitVec 8),
    decode (0x13000000#32 + g.setWidth 32 + i.setWidth 32 <<< 4 + j.setWidth 32 <<< 8) = .ok (.mxWrite g i j) ∧
    decode (0x14000000#32 + g.setWidth 32 + k.setWidth 32 <<< 4 + a.setWidth 32 <<< 16) = .ok (.mxAng g k a) ∧
    decode (0x15000000#32 + g.setWidth 32 + sg.setWidth 32 <<< 8) = .ok (.mxSigns g sg)) ∧
  (∀ (s : Machine.State) (g i j : BitVec 3) (k : BitVec 5) (a : BitVec 6) (sg : BitVec 8), Spec.Ready s →
    (s.group g).size = 0 →
    exec (.mxWrite g i j) s = .next (Spec.raised s 6 3) ∧ exec (.mxAng g k a) s = .next (Spec.raised s 6 3) ∧
    exec (.mxSigns g sg) s = .next (Spec.raised s 6 3)) ∧
  ∀ (s : Machine.State) (g i j : BitVec 3) (k : BitVec 5) (a : BitVec 6) (sg : BitVec 8), Spec.Ready s →
    (s.group g).size ≠ 0 → (s.group g).count ≤ 8 →
    (i.toNat < (s.group g).count → j.toNat < (s.group g).count →
      ∃ u, exec (.mxWrite g i j) s = .next u ∧ u = Spec.finished { s with grp := u.grp } ∧
        u.group g = { s.group g with mat := (u.group g).mat } ∧ Spec.OtherGroups s u g ∧
        matGet (u.group g).mat i.toNat j.toNat = s.arg0 ∧
        ∀ x y, x ≠ i.toNat ∨ y ≠ j.toNat → matGet (u.group g).mat x y = matGet (s.group g).mat x y) ∧
    ((s.group g).count ≤ i.toNat ∨ (s.group g).count ≤ j.toNat →
      exec (.mxWrite g i j) s = .next (Spec.raised s 4 3)) ∧
    (2 * k.toNat < (s.group g).count * ((s.group g).count - 1) →
      ∃ u, exec (.mxAng g k a) s = .next u ∧ u = Spec.finished { s with grp := u.grp } ∧
        u.group g = { s.group g with ang := (u.group g).ang } ∧ Spec.OtherGroups s u g ∧
        (u.group g).ang.getD k.toNat 0 = a ∧
        ∀ x, x ≠ k.toNat → (u.group g).ang.getD x 0 = (s.group g).ang.getD x 0) ∧
    ((s.group g).count * ((s.group g).count - 1) ≤ 2 * k.toNat →
      exec (.mxAng g k a) s = .next (Spec.raised s 4 3)) ∧
    ((∀ b, (s.group g).count ≤ b → sg.getLsbD b = false) →
      ∃ u, exec (.mxSigns g sg) s = .next u ∧ u = Spec.finished { s with grp := u.grp } ∧
        u.group g = { s.group g with sgn := sg } ∧ Spec.OtherGroups s u g) ∧
    ((∃ b, (s.group g).count ≤ b ∧ sg.getLsbD b = true) →
      exec (.mxSigns g sg) s = .next (Spec.raised s 4 3))

/-- R11, R166, R168 (L5): MX_ROT replaces the matrix of a set group by the one the rotations of R166 make from its size,
signs and angles, the in-place loop of the rule being the composition of plane rotations on whole rows; it changes
nothing else; on a group that is not set it raises NOT_READY(3). ROT_SIN[i], which the rotations take, is sin(i·π/64)
rounded to nearest for i in 0..32 (assumption log 8). -/
def Obligations.MxRotComposesRotations : Prop :=
  (∀ i : Nat, i ≤ 32 → Spec.RoundsReal (rotSin i) (Real.sin (i * Real.pi / 64))) ∧
  (∀ g : BitVec 3, decode (0x16000000#32 + g.setWidth 32) = .ok (.mxRot g)) ∧
  ∀ (s : Machine.State) (g : BitVec 3), Spec.Ready s →
    ((s.group g).size = 0 → exec (.mxRot g) s = .next (Spec.raised s 6 3)) ∧
    ((s.group g).size ≠ 0 → (s.group g).count ≤ 8 →
      ∃ u, exec (.mxRot g) s = .next u ∧ u = Spec.finished { s with grp := u.grp } ∧
        u.group g = { s.group g with mat := (u.group g).mat } ∧ Spec.OtherGroups s u g ∧
        ∀ i j, i < 8 → j < 8 → matGet (u.group g).mat i j =
          Spec.customMatrix (s.group g).count (s.group g).sgn
            (fun k => ((s.group g).ang.getD k 0).toNat) (s.group g).count i j)

/-- R167, R168 (L2, L6): MX_APPLY g, on a set group with a valid subframe and valid bands, puts at each position y of each
band b of each member j the sum over k of d[k]·M[j][k] from +0.0 when the mask's bit b is 1, the coefficient times
1.4140625 when it is 0 and OFFSCALE is 1, and the coefficient itself otherwise; every d[k] is read before any write;
every byte outside the members' positions y < SFB[SUB_NB] is unchanged, and so is every register. Its errors are
NOT_READY(3), NOT_READY(2) and MALFORMED(2), in that order. -/
def Obligations.MxApplyMixesEveryBand : Prop :=
  (∀ g : BitVec 3, decode (0x17000000#32 + g.setWidth 32) = .ok (.mxApply g)) ∧
  ∀ (s : Machine.State) (g : BitVec 3), Spec.Ready s →
    ((s.group g).size = 0 → exec (.mxApply g) s = .next (Spec.raised s 6 3)) ∧
    ((s.group g).size ≠ 0 → s.subValid = false → exec (.mxApply g) s = .next (Spec.raised s 6 2)) ∧
    ((s.group g).size ≠ 0 → s.subValid = true → ¬Spec.BandsOk s →
      exec (.mxApply g) s = .next (Spec.raised s 3 2)) ∧
    (ConfigInv s → GroupInv s → (s.group g).size ≠ 0 → s.subValid = true → Spec.BandsOk s →
      ∃ u, exec (.mxApply g) s = .next u ∧ u = Spec.finished { s with mem := u.mem } ∧
        (∀ b, b < s.subNb.toNat → ∀ y, s.bound b ≤ y → y < s.bound (b + 1) → ∀ j, j < (s.group g).count →
          coef u.mem ((s.group g).member j) y = Spec.mixedCoef s.mem (s.group g) b j y) ∧
        ∀ a, (∀ j, j < (s.group g).count → a < coefAddr ((s.group g).member j) 0 ∨
          coefAddr ((s.group g).member j) (s.bound s.subNb.toNat) ≤ a) → Spec.SameByte s u a)

/-! Dequantizer (R180, R181). -/

/-- R180: DEQUANT c multiplies every coefficient of each band by GAIN(e) of the band, sets the positions SFB[SUB_NB] ..
SUB_N−1 to +0.0, and changes no byte outside COEF[c][0..SUB_N−1] and no register. Its errors are ILLEGAL_CMD(3),
NOT_READY(2), MALFORMED(2) and MALFORMED(3), in that order. -/
def Obligations.DequantScalesEveryBand : Prop :=
  (∀ c : BitVec 3, decode (0x26000000#32 + c.setWidth 32) = .ok (.dequant c)) ∧
  ∀ (s : Machine.State) (c : BitVec 3), Spec.Ready s →
    let q := s.qstep.toInt + (s.channel c).qmod.toInt
    (s.cfgNch.toNat ≤ c.toNat → exec (.dequant c) s = .next (Spec.raised s 4 3)) ∧
    (c.toNat < s.cfgNch.toNat → s.subValid = false → exec (.dequant c) s = .next (Spec.raised s 6 2)) ∧
    (c.toNat < s.cfgNch.toNat → s.subValid = true → ¬Spec.BandsOk s →
      exec (.dequant c) s = .next (Spec.raised s 3 2)) ∧
    (c.toNat < s.cfgNch.toNat → s.subValid = true → Spec.BandsOk s → q < 0 →
      exec (.dequant c) s = .next (Spec.raised s 3 3)) ∧
    (ConfigInv s → c.toNat < s.cfgNch.toNat → s.subValid = true → Spec.BandsOk s → 0 ≤ q →
      ∃ u, exec (.dequant c) s = .next u ∧ u = Spec.finished { s with mem := u.mem } ∧
        (∀ b, b < s.subNb.toNat → ∀ y, s.bound b ≤ y → y < s.bound (b + 1) →
          coef u.mem c.toNat y = fmul (coef s.mem c.toNat y) (gain (Spec.bandExponent s c b))) ∧
        (∀ y, s.bound s.subNb.toNat ≤ y → y < s.subN.toNat → coef u.mem c.toNat y = 0) ∧
        ∀ a, a < coefAddr c.toNat 0 ∨ coefAddr c.toNat s.subN.toNat ≤ a → Spec.SameByte s u a)

/-- R11, R180: GAIN(e) is 10^(e/20) rounded to nearest. For −903 ≤ e ≤ 770 it is a positive finite binary32 and 10^(e/20)
lies strictly between the two midpoints to its neighbours, compared as exact integers after raising to the 20th
power; above, 10^(e/20) rounds past the largest finite value and GAIN(e) is +infinity; below, it is less than half the
smallest subnormal and GAIN(e) is +0.0. -/
def Obligations.GainIsCorrectlyRounded : Prop :=
  (∀ e : Int, -903 ≤ e → e ≤ 770 →
    let n := (gain e).toNat
    1 ≤ n ∧ n < 0x7F800000 ∧
    (Spec.magOf (n - 1) + Spec.magOf n) ^ 20 * 10 ^ (-e).toNat < 10 ^ e.toNat * 2 ^ 3000 ∧
    10 ^ e.toNat * 2 ^ 3000 < (Spec.magOf n + Spec.magOf (n + 1)) ^ 20 * 10 ^ (-e).toNat) ∧
  (∀ e : Int, 771 ≤ e → gain e = 0x7F800000#32 ∧ ((2 ^ 25 - 1) * 2 ^ 253) ^ 20 ≤ 10 ^ e.toNat * 2 ^ 3000) ∧
  (∀ e : Int, e ≤ -904 → gain e = 0 ∧ 2 ^ 3000 < 10 ^ (-e).toNat)

/-! Inverse transform (R12, R190, R192). -/

/-- R12, R190: IMDCT c overwrites PCM[c] from CFG_SPF/2 + SUB_OFF on with the N samples of the transform of
COEF[c][0..N−1], and changes no other byte and no register; when every input is ±0, so is every output (P2). The
transform's values are open: the statement holds for every one (assumption log 3). Its errors are ILLEGAL_CMD(3) and
NOT_READY(2), in that order. -/
def Obligations.ImdctWritesTheBlock : Prop :=
  (∀ c : BitVec 3, decode (0x27000000#32 + c.setWidth 32) = .ok (.imdct c)) ∧
  ∀ (s : Machine.State) (c : BitVec 3), Spec.Ready s →
    let base := s.cfgSpf.toNat / 2 + s.subOff.toNat
    let n := s.subN.toNat
    (s.cfgNch.toNat ≤ c.toNat → exec (.imdct c) s = .next (Spec.raised s 4 3)) ∧
    (c.toNat < s.cfgNch.toNat → s.subValid = false → exec (.imdct c) s = .next (Spec.raised s 6 2)) ∧
    (ConfigInv s → c.toNat < s.cfgNch.toNat → s.subValid = true →
      ∃ u, exec (.imdct c) s = .next u ∧ u = Spec.finished { s with mem := u.mem } ∧
        (∀ m, m < n → pcm u.mem c.toNat (base + m) =
          imdctSample n ((List.range n).map (coef s.mem c.toNat)) m) ∧
        (∀ a, a < pcmAddr c.toNat base ∨ pcmAddr c.toNat (base + n) ≤ a → Spec.SameByte s u a) ∧
        ((∀ k, k < n → coef s.mem c.toNat k = 0 ∨ coef s.mem c.toNat k = 0x80000000#32) →
          ∀ m, m < n → pcm u.mem c.toNat (base + m) = 0 ∨ pcm u.mem c.toNat (base + m) = 0x80000000#32))

/-- R192 (L3, L4): IMDCT c twice leaves the bytes IMDCT c once leaves; IMDCT on two different channels gives the same bytes
in either order. -/
def Obligations.ImdctRepeatsAndCommutes : Prop :=
  ∀ (s u : Machine.State) (c d : BitVec 3), ConfigInv s → exec (.imdct c) s = .next u →
    (∃ v, exec (.imdct c) u = .next v ∧ ∀ a, Spec.SameByte u v a) ∧
    (c ≠ d → Spec.Ready s → s.subValid = true → c.toNat < s.cfgNch.toNat → d.toNat < s.cfgNch.toNat →
      ∃ v u' v', exec (.imdct d) u = .next v ∧ exec (.imdct d) s = .next u' ∧ exec (.imdct c) u' = .next v' ∧
        ∀ a, Spec.SameByte v v' a)

/-! Window and output (R200-R204). -/

/-- R11, R200: WINDOW c cross-fades the 2h samples around the block's base, h = min(PREV_LEN[c], N)/2, each pair read before
either is written: the first half a·WIN[2h−1−k] − b·WIN[k], the second a·WIN[k] + b·WIN[2h−1−k]; it sets PREV_LEN[c]
to N and changes no other byte and no other register. The overlap has h ≥ 64 and lies inside the buffer. Its errors are
ILLEGAL_CMD(3) and NOT_READY(2), in that order. WIN_W[n], which the fades take, is sin((n + 1/2)·π/(2W)) rounded to
nearest for W in {128, 256, ..., 4096} and n < W (assumption log 8). -/
def Obligations.WindowCrossFades : Prop :=
  (∀ k n : Nat, k ≤ 5 → n < 128 * 2 ^ k →
    Spec.RoundsReal (win (128 * 2 ^ k) n) (Real.sin ((n + 1 / 2) * Real.pi / (2 * (128 * 2 ^ k))))) ∧
  (∀ c : BitVec 3, decode (0x28000000#32 + c.setWidth 32) = .ok (.window c)) ∧
  ∀ (s : Machine.State) (c : BitVec 3), Spec.Ready s →
    let w := min (s.channel c).prevLen.toNat s.subN.toNat
    let h := w / 2
    let base := s.cfgSpf.toNat / 2 + s.subOff.toNat
    let start := base - h
    (s.cfgNch.toNat ≤ c.toNat → exec (.window c) s = .next (Spec.raised s 4 3)) ∧
    (c.toNat < s.cfgNch.toNat → s.subValid = false → exec (.window c) s = .next (Spec.raised s 6 2)) ∧
    (ConfigInv s → c.toNat < s.cfgNch.toNat → s.subValid = true →
      64 ≤ h ∧ h ≤ base ∧ start + 2 * h ≤ 3 * s.cfgSpf.toNat / 2 ∧
      ∃ u, exec (.window c) s = .next u ∧ u = Spec.finished { s with chan := u.chan, mem := u.mem } ∧
        u.channel c = { s.channel c with prevLen := s.subN } ∧ Spec.OtherChannels s u c ∧
        (∀ k, k < h →
          let a := pcm s.mem c.toNat (start + k)
          let b := pcm s.mem c.toNat (start + 2 * h - 1 - k)
          pcm u.mem c.toNat (start + k) = fsub (fmul a (win w (2 * h - 1 - k))) (fmul b (win w k)) ∧
          pcm u.mem c.toNat (start + 2 * h - 1 - k) =
            fadd (fmul a (win w k)) (fmul b (win w (2 * h - 1 - k)))) ∧
        ∀ a, a < pcmAddr c.toNat start ∨ pcmAddr c.toNat (start + 2 * h) ≤ a → Spec.SameByte s u a)

/-- R201: PCM_ZERO c makes the frame-relative samples ARG0 .. ARG0+ARG1−1 of channel c +0.0 and changes no other byte and
no register; a range past the frame's end, the sum computed without wrap, and a channel that does not exist raise
ILLEGAL_CMD(3). -/
def Obligations.PcmZeroClearsTheRange : Prop :=
  (∀ c : BitVec 3, decode (0x29000000#32 + c.setWidth 32) = .ok (.pcmZero c)) ∧
  ∀ (s : Machine.State) (c : BitVec 3), Spec.Ready s →
    let base := s.cfgSpf.toNat / 2 + s.arg0.toNat
    (s.cfgNch.toNat ≤ c.toNat → exec (.pcmZero c) s = .next (Spec.raised s 4 3)) ∧
    (c.toNat < s.cfgNch.toNat → s.arg0.toNat + s.arg1.toNat ≤ s.cfgSpf.toNat →
      ∃ u, exec (.pcmZero c) s = .next u ∧ u = Spec.finished { s with mem := u.mem } ∧
        (∀ t, t < s.arg1.toNat → pcm u.mem c.toNat (base + t) = 0) ∧
        ∀ a, a < pcmAddr c.toNat base ∨ pcmAddr c.toNat (base + s.arg1.toNat) ≤ a → Spec.SameByte s u a) ∧
    (c.toNat < s.cfgNch.toNat → s.cfgSpf.toNat < s.arg0.toNat + s.arg1.toNat →
      exec (.pcmZero c) s = .next (Spec.raised s 4 3))

/-- R43, R203, R204 (L4, L5): OUT_EMIT puts clip16 of sample i of the channel of slot j at OUT[i·C + j], moves
PCM[c][S..3S/2−1] to PCM[c][0..S/2−1] and makes PCM[c][S/2..3S/2−1] +0.0 for c < C; every other byte, the rest of OUT
included, and every register is unchanged. The slot's channel is nibble j of REMAP6 for C = 6 and j otherwise. -/
def Obligations.OutEmitEmitsAndShifts : Prop :=
  decode 0x30000000#32 = .ok .outEmit ∧
  ∀ s : Machine.State, Spec.Ready s → ConfigInv s →
    let nch := s.cfgNch.toNat
    let spf := s.cfgSpf.toNat
    ∃ u, exec .outEmit s = .next u ∧ u = Spec.finished { s with mem := u.mem } ∧
      (∀ i j, i < spf → j < nch →
        out u.mem (i * nch + j) =
          clip16 (pcm s.mem (if nch = 6 then s.remap6.toNat / 16 ^ j % 16 else j) i)) ∧
      (∀ c i, c < nch → i < spf / 2 → pcm u.mem c i = pcm s.mem c (spf + i)) ∧
      (∀ c i, c < nch → spf / 2 ≤ i → i < 3 * spf / 2 → pcm u.mem c i = 0) ∧
      ∀ a, (a < outAddr 0 ∨ outAddr (nch * spf) ≤ a) →
        (∀ c, c < nch → a < pcmAddr c 0 ∨ pcmAddr c (3 * spf / 2) ≤ a) → Spec.SameByte s u a

/-- R181 (L4), R204 (L1), the core's part of scenario A: silence stays silent. DEQUANT of ±0 coefficients with finite
gains gives ±0 coefficients, WINDOW of an all ±0 channel leaves it all ±0, and OUT_EMIT of all ±0 samples gives the
output 0. (IMDCT's part is R192 (L2), stated with IMDCT.) -/
def Obligations.SilenceStaysSilent : Prop :=
  ∀ (s : Machine.State) (c : BitVec 3), Spec.Ready s → ConfigInv s → c.toNat < s.cfgNch.toNat →
    (s.subValid = true → Spec.BandsOk s → 0 ≤ s.qstep.toInt + (s.channel c).qmod.toInt →
      (∀ b, b < s.subNb.toNat → Spec.Finite (gain (Spec.bandExponent s c b))) →
      (∀ y, y < s.subN.toNat → Spec.Zero (coef s.mem c.toNat y)) →
      ∃ u, exec (.dequant c) s = .next u ∧ ∀ y, y < s.subN.toNat → Spec.Zero (coef u.mem c.toNat y)) ∧
    (s.subValid = true → (∀ i, i < 6144 → Spec.Zero (pcm s.mem c.toNat i)) →
      ∃ u, exec (.window c) s = .next u ∧ ∀ i, i < 6144 → Spec.Zero (pcm u.mem c.toNat i)) ∧
    ((∀ d i, d < s.cfgNch.toNat → i < s.cfgSpf.toNat → Spec.Zero (pcm s.mem d i)) →
      ∃ u, exec .outEmit s = .next u ∧ ∀ k, k < s.cfgNch.toNat * s.cfgSpf.toNat → out u.mem k = 0)

/-- R202: clip16 of a NaN is 0; of an infinity the end of the range on its side; of a finite value the integer nearest to
it, ties to even, saturated to −32768..32767. -/
def Obligations.Clip16RoundsAndSaturates : Prop :=
  (∀ x : F32, isNaN x = true → clip16 x = 0) ∧
  clip16 0x7F800000#32 = 32767 ∧ (clip16 0xFF800000#32).toInt = -32768 ∧
  ∀ x : F32, Spec.Finite x →
    ∃ r : Int, 2 * (r * 2 ^ 149 - toUnits x).natAbs ≤ 2 ^ 149 ∧
      (2 * (r * 2 ^ 149 - toUnits x).natAbs = 2 ^ 149 → r % 2 = 0) ∧
      (clip16 x).toInt = max (-32768) (min 32767 r)

/-! Arithmetic (R10). -/

/-- R10: fadd and fsub of finite operands round the exact sum and difference to nearest, ties to even, keep subnormals,
overflow to the infinity of the sum's sign, and give +0 for an exact zero unless both terms are −0. An infinity plus a
finite value or the same infinity is that infinity; infinities that cancel give the canonical NaN. fneg flips the sign
bit, of a NaN too, and fsub of `b` is fadd of `b` with its sign flipped. -/
def Obligations.FaddRoundsToNearest : Prop :=
  (∀ a b : F32, fneg b = b ^^^ 0x80000000#32 ∧ fsub a b = fadd a (b ^^^ 0x80000000#32)) ∧
  (∀ a b : F32, Spec.Finite a → Spec.Finite b →
    (toUnits a + toUnits b = 0 →
      fadd a b = if signBit a = true ∧ signBit b = true then 0x80000000#32 else 0) ∧
    (toUnits a + toUnits b ≠ 0 → Spec.Overflows (toUnits a + toUnits b) 0 →
      fadd a b = if toUnits a + toUnits b < 0 then 0xFF800000#32 else 0x7F800000#32) ∧
    (toUnits a + toUnits b ≠ 0 → ¬Spec.Overflows (toUnits a + toUnits b) 0 →
      Spec.Finite (fadd a b) ∧ Spec.Nearest (fadd a b) (toUnits a + toUnits b) 0)) ∧
  (∀ a b : F32, Spec.Infinite a → Spec.Finite b →
    fadd a b = a ∧ fadd b a = a ∧ fsub a b = a ∧ fsub b a = a ^^^ 0x80000000#32) ∧
  ∀ a b : F32, Spec.Infinite a → Spec.Infinite b →
    (a = b → fadd a b = a ∧ fsub a b = 0x7FC00000#32) ∧
    (a ≠ b → fadd a b = 0x7FC00000#32 ∧ fsub a b = a)

/-- R10: fmul of finite operands rounds the exact product to nearest, ties to even, keeps subnormals and overflows to
infinity; its sign is the product of the signs, zeros included. An infinity times a finite value that is not zero, or
times an infinity, is the infinity with the product of the signs. Infinity times zero is the canonical NaN, and so is
every result of fmul, fadd and fsub with a NaN operand. -/
def Obligations.FmulRoundsToNearest : Prop :=
  (∀ a b : F32, Spec.Finite a → Spec.Finite b →
    signBit (fmul a b) = (signBit a != signBit b) ∧
    (Spec.Overflows (toUnits a * toUnits b) 149 →
      fmul a b = if signBit a = signBit b then 0x7F800000#32 else 0xFF800000#32) ∧
    (¬Spec.Overflows (toUnits a * toUnits b) 149 →
      Spec.Finite (fmul a b) ∧ Spec.Nearest (fmul a b) (toUnits a * toUnits b) 149)) ∧
  (∀ a b : F32, Spec.Infinite a → Spec.Infinite b ∨ Spec.Finite b ∧ ¬Spec.Zero b →
    let r := if signBit a = signBit b then 0x7F800000#32 else 0xFF800000#32
    fmul a b = r ∧ fmul b a = r) ∧
  (∀ a b : F32, Spec.Infinite a → Spec.Zero b → fmul a b = 0x7FC00000#32 ∧ fmul b a = 0x7FC00000#32) ∧
  ∀ a b : F32, isNaN a = true ∨ isNaN b = true →
    fmul a b = 0x7FC00000#32 ∧ fadd a b = 0x7FC00000#32 ∧ fsub a b = 0x7FC00000#32

/-! Invariants every step keeps. -/

/-- Every step keeps the canonical form in which the model holds the data RAMs (assumption log 10). -/
def Obligations.StepKeepsMemoryInv : Prop :=
  ∀ s u : Machine.State, MemoryInv s → step s = .next u → MemoryInv u

/-- R29: "The invariant BR_START + BR_LEN ≤ BBUF_BITS and BR_POS ≤ BR_LEN always holds": every step keeps it. -/
def Obligations.StepKeepsBitReaderInv : Prop :=
  ∀ s u : Machine.State, BitReaderInv s → step s = .next u → BitReaderInv u

/-- R38, R39, R106-R109: every step keeps the tables legal: MAXLEN and COUNT in range, entries within MAXLEN, a VALID table
not empty and prefix-free. The invariant's first clause, the canonical form of the entry RAM, is no rule of the spec:
it is the model's own (assumption log 14, DESIGN CHOICE). -/
def Obligations.StepKeepsVlcInv : Prop :=
  ∀ s u : Machine.State, VlcInv s → step s = .next u → VlcInv u

/-- R30-R37, R132-R142, R159-R165: every step keeps the configuration, the subframe context and the groups legal. The two
are kept together: CFG changes the channel count and clears every group. -/
def Obligations.StepKeepsConfigAndGroupInv : Prop :=
  ∀ s u : Machine.State, ConfigInv s ∧ GroupInv s → step s = .next u → ConfigInv u ∧ GroupInv u

/-- R61: from a legal configuration no step writes a byte outside BBUF, COEF, the 6144 words of a PCM channel, and OUT. -/
def Obligations.StepKeepsExtentInv : Prop :=
  ∀ s u : Machine.State, ConfigInv s → GroupInv s → ExtentInv s → step s = .next u → ExtentInv u

/-- R46, R251: the reset state has every invariant above. -/
def Obligations.ResetHasTheInvariants : Prop :=
  StatusInv State.reset ∧ MemoryInv State.reset ∧ BitReaderInv State.reset ∧ VlcInv State.reset ∧
    ConfigInv State.reset ∧ GroupInv State.reset ∧ ExtentInv State.reset
end

