-- ==== Sys2Proof/Laws/State.lean ====
section
/-! SUPPORT. The small lemmas of State's updates: one per field per update, and the registers of a channel, a
group and a table after a replacement. -/

namespace Sys2Proof.Machine

/-! `State.complete` -/

@[simp] theorem State.complete_busy (s : State) : (s.complete).busy = false := rfl
@[simp] theorem State.complete_done (s : State) : (s.complete).done = true := rfl
@[simp] theorem State.complete_haz (s : State) : (s.complete).haz = s.haz := rfl
@[simp] theorem State.complete_err (s : State) : (s.complete).err = s.err := rfl
@[simp] theorem State.complete_configured (s : State) : (s.complete).configured = s.configured := rfl
@[simp] theorem State.complete_ieDone (s : State) : (s.complete).ieDone = s.ieDone := rfl
@[simp] theorem State.complete_ieErr (s : State) : (s.complete).ieErr = s.ieErr := rfl
@[simp] theorem State.complete_lastCmd (s : State) : (s.complete).lastCmd = s.lastCmd := rfl
@[simp] theorem State.complete_arg0 (s : State) : (s.complete).arg0 = s.arg0 := rfl
@[simp] theorem State.complete_arg1 (s : State) : (s.complete).arg1 = s.arg1 := rfl
@[simp] theorem State.complete_arg2 (s : State) : (s.complete).arg2 = s.arg2 := rfl
@[simp] theorem State.complete_res0 (s : State) : (s.complete).res0 = s.res0 := rfl
@[simp] theorem State.complete_res1 (s : State) : (s.complete).res1 = s.res1 := rfl
@[simp] theorem State.complete_errCmd (s : State) : (s.complete).errCmd = s.errCmd := rfl
@[simp] theorem State.complete_errInfo (s : State) : (s.complete).errInfo = s.errInfo := rfl
@[simp] theorem State.complete_brStart (s : State) : (s.complete).brStart = s.brStart := rfl
@[simp] theorem State.complete_brLen (s : State) : (s.complete).brLen = s.brLen := rfl
@[simp] theorem State.complete_brPos (s : State) : (s.complete).brPos = s.brPos := rfl
@[simp] theorem State.complete_cfgNch (s : State) : (s.complete).cfgNch = s.cfgNch := rfl
@[simp] theorem State.complete_cfgSpf (s : State) : (s.complete).cfgSpf = s.cfgSpf := rfl
@[simp] theorem State.complete_cfgMaxsub (s : State) : (s.complete).cfgMaxsub = s.cfgMaxsub := rfl
@[simp] theorem State.complete_remap6 (s : State) : (s.complete).remap6 = s.remap6 := rfl
@[simp] theorem State.complete_subN (s : State) : (s.complete).subN = s.subN := rfl
@[simp] theorem State.complete_subOff (s : State) : (s.complete).subOff = s.subOff := rfl
@[simp] theorem State.complete_subNb (s : State) : (s.complete).subNb = s.subNb := rfl
@[simp] theorem State.complete_subValid (s : State) : (s.complete).subValid = s.subValid := rfl
@[simp] theorem State.complete_qstep (s : State) : (s.complete).qstep = s.qstep := rfl
@[simp] theorem State.complete_chan (s : State) : (s.complete).chan = s.chan := rfl
@[simp] theorem State.complete_sfb (s : State) : (s.complete).sfb = s.sfb := rfl
@[simp] theorem State.complete_grp (s : State) : (s.complete).grp = s.grp := rfl
@[simp] theorem State.complete_vlc (s : State) : (s.complete).vlc = s.vlc := rfl
@[simp] theorem State.complete_vlcRam (s : State) : (s.complete).vlcRam = s.vlcRam := rfl
@[simp] theorem State.complete_mem (s : State) : (s.complete).mem = s.mem := rfl
@[simp] theorem State.complete_host (s : State) : (s.complete).host = s.host := rfl
@[simp] theorem State.complete_reads (s : State) : (s.complete).reads = s.reads := rfl

/-! `State.raise` -/

@[simp] theorem State.raise_busy (s : State) (e : CmdError) : (s.raise e).busy = s.busy := rfl
@[simp] theorem State.raise_done (s : State) (e : CmdError) : (s.raise e).done = s.done := rfl
@[simp] theorem State.raise_haz (s : State) (e : CmdError) : (s.raise e).haz = s.haz := rfl
@[simp] theorem State.raise_err (s : State) (e : CmdError) : (s.raise e).err = errorCode e := rfl
@[simp] theorem State.raise_configured (s : State) (e : CmdError) : (s.raise e).configured = s.configured := rfl
@[simp] theorem State.raise_ieDone (s : State) (e : CmdError) : (s.raise e).ieDone = s.ieDone := rfl
@[simp] theorem State.raise_ieErr (s : State) (e : CmdError) : (s.raise e).ieErr = s.ieErr := rfl
@[simp] theorem State.raise_lastCmd (s : State) (e : CmdError) : (s.raise e).lastCmd = s.lastCmd := rfl
@[simp] theorem State.raise_arg0 (s : State) (e : CmdError) : (s.raise e).arg0 = s.arg0 := rfl
@[simp] theorem State.raise_arg1 (s : State) (e : CmdError) : (s.raise e).arg1 = s.arg1 := rfl
@[simp] theorem State.raise_arg2 (s : State) (e : CmdError) : (s.raise e).arg2 = s.arg2 := rfl
@[simp] theorem State.raise_res0 (s : State) (e : CmdError) : (s.raise e).res0 = s.res0 := rfl
@[simp] theorem State.raise_res1 (s : State) (e : CmdError) : (s.raise e).res1 = s.res1 := rfl
@[simp] theorem State.raise_errCmd (s : State) (e : CmdError) : (s.raise e).errCmd = s.lastCmd := rfl
@[simp] theorem State.raise_errInfo (s : State) (e : CmdError) : (s.raise e).errInfo = errorInfo e := rfl
@[simp] theorem State.raise_brStart (s : State) (e : CmdError) : (s.raise e).brStart = s.brStart := rfl
@[simp] theorem State.raise_brLen (s : State) (e : CmdError) : (s.raise e).brLen = s.brLen := rfl
@[simp] theorem State.raise_brPos (s : State) (e : CmdError) : (s.raise e).brPos = s.brPos := rfl
@[simp] theorem State.raise_cfgNch (s : State) (e : CmdError) : (s.raise e).cfgNch = s.cfgNch := rfl
@[simp] theorem State.raise_cfgSpf (s : State) (e : CmdError) : (s.raise e).cfgSpf = s.cfgSpf := rfl
@[simp] theorem State.raise_cfgMaxsub (s : State) (e : CmdError) : (s.raise e).cfgMaxsub = s.cfgMaxsub := rfl
@[simp] theorem State.raise_remap6 (s : State) (e : CmdError) : (s.raise e).remap6 = s.remap6 := rfl
@[simp] theorem State.raise_subN (s : State) (e : CmdError) : (s.raise e).subN = s.subN := rfl
@[simp] theorem State.raise_subOff (s : State) (e : CmdError) : (s.raise e).subOff = s.subOff := rfl
@[simp] theorem State.raise_subNb (s : State) (e : CmdError) : (s.raise e).subNb = s.subNb := rfl
@[simp] theorem State.raise_subValid (s : State) (e : CmdError) : (s.raise e).subValid = s.subValid := rfl
@[simp] theorem State.raise_qstep (s : State) (e : CmdError) : (s.raise e).qstep = s.qstep := rfl
@[simp] theorem State.raise_chan (s : State) (e : CmdError) : (s.raise e).chan = s.chan := rfl
@[simp] theorem State.raise_sfb (s : State) (e : CmdError) : (s.raise e).sfb = s.sfb := rfl
@[simp] theorem State.raise_grp (s : State) (e : CmdError) : (s.raise e).grp = s.grp := rfl
@[simp] theorem State.raise_vlc (s : State) (e : CmdError) : (s.raise e).vlc = s.vlc := rfl
@[simp] theorem State.raise_vlcRam (s : State) (e : CmdError) : (s.raise e).vlcRam = s.vlcRam := rfl
@[simp] theorem State.raise_mem (s : State) (e : CmdError) : (s.raise e).mem = s.mem := rfl
@[simp] theorem State.raise_host (s : State) (e : CmdError) : (s.raise e).host = s.host := rfl
@[simp] theorem State.raise_reads (s : State) (e : CmdError) : (s.raise e).reads = s.reads := rfl

/-! `State.clearError` -/

@[simp] theorem State.clearError_busy (s : State) : (s.clearError).busy = s.busy := rfl
@[simp] theorem State.clearError_done (s : State) : (s.clearError).done = s.done := rfl
@[simp] theorem State.clearError_haz (s : State) : (s.clearError).haz = s.haz := rfl
@[simp] theorem State.clearError_err (s : State) : (s.clearError).err = 0 := rfl
@[simp] theorem State.clearError_configured (s : State) : (s.clearError).configured = s.configured := rfl
@[simp] theorem State.clearError_ieDone (s : State) : (s.clearError).ieDone = s.ieDone := rfl
@[simp] theorem State.clearError_ieErr (s : State) : (s.clearError).ieErr = s.ieErr := rfl
@[simp] theorem State.clearError_lastCmd (s : State) : (s.clearError).lastCmd = s.lastCmd := rfl
@[simp] theorem State.clearError_arg0 (s : State) : (s.clearError).arg0 = s.arg0 := rfl
@[simp] theorem State.clearError_arg1 (s : State) : (s.clearError).arg1 = s.arg1 := rfl
@[simp] theorem State.clearError_arg2 (s : State) : (s.clearError).arg2 = s.arg2 := rfl
@[simp] theorem State.clearError_res0 (s : State) : (s.clearError).res0 = s.res0 := rfl
@[simp] theorem State.clearError_res1 (s : State) : (s.clearError).res1 = s.res1 := rfl
@[simp] theorem State.clearError_errCmd (s : State) : (s.clearError).errCmd = 0 := rfl
@[simp] theorem State.clearError_errInfo (s : State) : (s.clearError).errInfo = 0 := rfl
@[simp] theorem State.clearError_brStart (s : State) : (s.clearError).brStart = s.brStart := rfl
@[simp] theorem State.clearError_brLen (s : State) : (s.clearError).brLen = s.brLen := rfl
@[simp] theorem State.clearError_brPos (s : State) : (s.clearError).brPos = s.brPos := rfl
@[simp] theorem State.clearError_cfgNch (s : State) : (s.clearError).cfgNch = s.cfgNch := rfl
@[simp] theorem State.clearError_cfgSpf (s : State) : (s.clearError).cfgSpf = s.cfgSpf := rfl
@[simp] theorem State.clearError_cfgMaxsub (s : State) : (s.clearError).cfgMaxsub = s.cfgMaxsub := rfl
@[simp] theorem State.clearError_remap6 (s : State) : (s.clearError).remap6 = s.remap6 := rfl
@[simp] theorem State.clearError_subN (s : State) : (s.clearError).subN = s.subN := rfl
@[simp] theorem State.clearError_subOff (s : State) : (s.clearError).subOff = s.subOff := rfl
@[simp] theorem State.clearError_subNb (s : State) : (s.clearError).subNb = s.subNb := rfl
@[simp] theorem State.clearError_subValid (s : State) : (s.clearError).subValid = s.subValid := rfl
@[simp] theorem State.clearError_qstep (s : State) : (s.clearError).qstep = s.qstep := rfl
@[simp] theorem State.clearError_chan (s : State) : (s.clearError).chan = s.chan := rfl
@[simp] theorem State.clearError_sfb (s : State) : (s.clearError).sfb = s.sfb := rfl
@[simp] theorem State.clearError_grp (s : State) : (s.clearError).grp = s.grp := rfl
@[simp] theorem State.clearError_vlc (s : State) : (s.clearError).vlc = s.vlc := rfl
@[simp] theorem State.clearError_vlcRam (s : State) : (s.clearError).vlcRam = s.vlcRam := rfl
@[simp] theorem State.clearError_mem (s : State) : (s.clearError).mem = s.mem := rfl
@[simp] theorem State.clearError_host (s : State) : (s.clearError).host = s.host := rfl
@[simp] theorem State.clearError_reads (s : State) : (s.clearError).reads = s.reads := rfl

/-! `State.issue` -/

@[simp] theorem State.issue_busy (s : State) (w : Word) : (s.issue w).busy = true := rfl
@[simp] theorem State.issue_done (s : State) (w : Word) : (s.issue w).done = false := rfl
@[simp] theorem State.issue_haz (s : State) (w : Word) : (s.issue w).haz = s.haz := rfl
@[simp] theorem State.issue_err (s : State) (w : Word) : (s.issue w).err = s.err := rfl
@[simp] theorem State.issue_configured (s : State) (w : Word) : (s.issue w).configured = s.configured := rfl
@[simp] theorem State.issue_ieDone (s : State) (w : Word) : (s.issue w).ieDone = s.ieDone := rfl
@[simp] theorem State.issue_ieErr (s : State) (w : Word) : (s.issue w).ieErr = s.ieErr := rfl
@[simp] theorem State.issue_lastCmd (s : State) (w : Word) : (s.issue w).lastCmd = w := rfl
@[simp] theorem State.issue_arg0 (s : State) (w : Word) : (s.issue w).arg0 = s.arg0 := rfl
@[simp] theorem State.issue_arg1 (s : State) (w : Word) : (s.issue w).arg1 = s.arg1 := rfl
@[simp] theorem State.issue_arg2 (s : State) (w : Word) : (s.issue w).arg2 = s.arg2 := rfl
@[simp] theorem State.issue_res0 (s : State) (w : Word) : (s.issue w).res0 = s.res0 := rfl
@[simp] theorem State.issue_res1 (s : State) (w : Word) : (s.issue w).res1 = s.res1 := rfl
@[simp] theorem State.issue_errCmd (s : State) (w : Word) : (s.issue w).errCmd = s.errCmd := rfl
@[simp] theorem State.issue_errInfo (s : State) (w : Word) : (s.issue w).errInfo = s.errInfo := rfl
@[simp] theorem State.issue_brStart (s : State) (w : Word) : (s.issue w).brStart = s.brStart := rfl
@[simp] theorem State.issue_brLen (s : State) (w : Word) : (s.issue w).brLen = s.brLen := rfl
@[simp] theorem State.issue_brPos (s : State) (w : Word) : (s.issue w).brPos = s.brPos := rfl
@[simp] theorem State.issue_cfgNch (s : State) (w : Word) : (s.issue w).cfgNch = s.cfgNch := rfl
@[simp] theorem State.issue_cfgSpf (s : State) (w : Word) : (s.issue w).cfgSpf = s.cfgSpf := rfl
@[simp] theorem State.issue_cfgMaxsub (s : State) (w : Word) : (s.issue w).cfgMaxsub = s.cfgMaxsub := rfl
@[simp] theorem State.issue_remap6 (s : State) (w : Word) : (s.issue w).remap6 = s.remap6 := rfl
@[simp] theorem State.issue_subN (s : State) (w : Word) : (s.issue w).subN = s.subN := rfl
@[simp] theorem State.issue_subOff (s : State) (w : Word) : (s.issue w).subOff = s.subOff := rfl
@[simp] theorem State.issue_subNb (s : State) (w : Word) : (s.issue w).subNb = s.subNb := rfl
@[simp] theorem State.issue_subValid (s : State) (w : Word) : (s.issue w).subValid = s.subValid := rfl
@[simp] theorem State.issue_qstep (s : State) (w : Word) : (s.issue w).qstep = s.qstep := rfl
@[simp] theorem State.issue_chan (s : State) (w : Word) : (s.issue w).chan = s.chan := rfl
@[simp] theorem State.issue_sfb (s : State) (w : Word) : (s.issue w).sfb = s.sfb := rfl
@[simp] theorem State.issue_grp (s : State) (w : Word) : (s.issue w).grp = s.grp := rfl
@[simp] theorem State.issue_vlc (s : State) (w : Word) : (s.issue w).vlc = s.vlc := rfl
@[simp] theorem State.issue_vlcRam (s : State) (w : Word) : (s.issue w).vlcRam = s.vlcRam := rfl
@[simp] theorem State.issue_mem (s : State) (w : Word) : (s.issue w).mem = s.mem := rfl
@[simp] theorem State.issue_host (s : State) (w : Word) : (s.issue w).host = s.host := rfl
@[simp] theorem State.issue_reads (s : State) (w : Word) : (s.issue w).reads = s.reads := rfl

/-! `State.setChannel` -/

@[simp] theorem State.setChannel_busy (s : State) (c : BitVec 3) (r : Channel) : (s.setChannel c r).busy = s.busy := rfl
@[simp] theorem State.setChannel_done (s : State) (c : BitVec 3) (r : Channel) : (s.setChannel c r).done = s.done := rfl
@[simp] theorem State.setChannel_haz (s : State) (c : BitVec 3) (r : Channel) : (s.setChannel c r).haz = s.haz := rfl
@[simp] theorem State.setChannel_err (s : State) (c : BitVec 3) (r : Channel) : (s.setChannel c r).err = s.err := rfl
@[simp] theorem State.setChannel_configured (s : State) (c : BitVec 3) (r : Channel) : (s.setChannel c r).configured = s.configured := rfl
@[simp] theorem State.setChannel_ieDone (s : State) (c : BitVec 3) (r : Channel) : (s.setChannel c r).ieDone = s.ieDone := rfl
@[simp] theorem State.setChannel_ieErr (s : State) (c : BitVec 3) (r : Channel) : (s.setChannel c r).ieErr = s.ieErr := rfl
@[simp] theorem State.setChannel_lastCmd (s : State) (c : BitVec 3) (r : Channel) : (s.setChannel c r).lastCmd = s.lastCmd := rfl
@[simp] theorem State.setChannel_arg0 (s : State) (c : BitVec 3) (r : Channel) : (s.setChannel c r).arg0 = s.arg0 := rfl
@[simp] theorem State.setChannel_arg1 (s : State) (c : BitVec 3) (r : Channel) : (s.setChannel c r).arg1 = s.arg1 := rfl
@[simp] theorem State.setChannel_arg2 (s : State) (c : BitVec 3) (r : Channel) : (s.setChannel c r).arg2 = s.arg2 := rfl
@[simp] theorem State.setChannel_res0 (s : State) (c : BitVec 3) (r : Channel) : (s.setChannel c r).res0 = s.res0 := rfl
@[simp] theorem State.setChannel_res1 (s : State) (c : BitVec 3) (r : Channel) : (s.setChannel c r).res1 = s.res1 := rfl
@[simp] theorem State.setChannel_errCmd (s : State) (c : BitVec 3) (r : Channel) : (s.setChannel c r).errCmd = s.errCmd := rfl
@[simp] theorem State.setChannel_errInfo (s : State) (c : BitVec 3) (r : Channel) : (s.setChannel c r).errInfo = s.errInfo := rfl
@[simp] theorem State.setChannel_brStart (s : State) (c : BitVec 3) (r : Channel) : (s.setChannel c r).brStart = s.brStart := rfl
@[simp] theorem State.setChannel_brLen (s : State) (c : BitVec 3) (r : Channel) : (s.setChannel c r).brLen = s.brLen := rfl
@[simp] theorem State.setChannel_brPos (s : State) (c : BitVec 3) (r : Channel) : (s.setChannel c r).brPos = s.brPos := rfl
@[simp] theorem State.setChannel_cfgNch (s : State) (c : BitVec 3) (r : Channel) : (s.setChannel c r).cfgNch = s.cfgNch := rfl
@[simp] theorem State.setChannel_cfgSpf (s : State) (c : BitVec 3) (r : Channel) : (s.setChannel c r).cfgSpf = s.cfgSpf := rfl
@[simp] theorem State.setChannel_cfgMaxsub (s : State) (c : BitVec 3) (r : Channel) : (s.setChannel c r).cfgMaxsub = s.cfgMaxsub := rfl
@[simp] theorem State.setChannel_remap6 (s : State) (c : BitVec 3) (r : Channel) : (s.setChannel c r).remap6 = s.remap6 := rfl
@[simp] theorem State.setChannel_subN (s : State) (c : BitVec 3) (r : Channel) : (s.setChannel c r).subN = s.subN := rfl
@[simp] theorem State.setChannel_subOff (s : State) (c : BitVec 3) (r : Channel) : (s.setChannel c r).subOff = s.subOff := rfl
@[simp] theorem State.setChannel_subNb (s : State) (c : BitVec 3) (r : Channel) : (s.setChannel c r).subNb = s.subNb := rfl
@[simp] theorem State.setChannel_subValid (s : State) (c : BitVec 3) (r : Channel) : (s.setChannel c r).subValid = s.subValid := rfl
@[simp] theorem State.setChannel_qstep (s : State) (c : BitVec 3) (r : Channel) : (s.setChannel c r).qstep = s.qstep := rfl
@[simp] theorem State.setChannel_sfb (s : State) (c : BitVec 3) (r : Channel) : (s.setChannel c r).sfb = s.sfb := rfl
@[simp] theorem State.setChannel_grp (s : State) (c : BitVec 3) (r : Channel) : (s.setChannel c r).grp = s.grp := rfl
@[simp] theorem State.setChannel_vlc (s : State) (c : BitVec 3) (r : Channel) : (s.setChannel c r).vlc = s.vlc := rfl
@[simp] theorem State.setChannel_vlcRam (s : State) (c : BitVec 3) (r : Channel) : (s.setChannel c r).vlcRam = s.vlcRam := rfl
@[simp] theorem State.setChannel_mem (s : State) (c : BitVec 3) (r : Channel) : (s.setChannel c r).mem = s.mem := rfl
@[simp] theorem State.setChannel_host (s : State) (c : BitVec 3) (r : Channel) : (s.setChannel c r).host = s.host := rfl
@[simp] theorem State.setChannel_reads (s : State) (c : BitVec 3) (r : Channel) : (s.setChannel c r).reads = s.reads := rfl

/-! `State.setGroup` -/

@[simp] theorem State.setGroup_busy (s : State) (g : BitVec 3) (r : Group) : (s.setGroup g r).busy = s.busy := rfl
@[simp] theorem State.setGroup_done (s : State) (g : BitVec 3) (r : Group) : (s.setGroup g r).done = s.done := rfl
@[simp] theorem State.setGroup_haz (s : State) (g : BitVec 3) (r : Group) : (s.setGroup g r).haz = s.haz := rfl
@[simp] theorem State.setGroup_err (s : State) (g : BitVec 3) (r : Group) : (s.setGroup g r).err = s.err := rfl
@[simp] theorem State.setGroup_configured (s : State) (g : BitVec 3) (r : Group) : (s.setGroup g r).configured = s.configured := rfl
@[simp] theorem State.setGroup_ieDone (s : State) (g : BitVec 3) (r : Group) : (s.setGroup g r).ieDone = s.ieDone := rfl
@[simp] theorem State.setGroup_ieErr (s : State) (g : BitVec 3) (r : Group) : (s.setGroup g r).ieErr = s.ieErr := rfl
@[simp] theorem State.setGroup_lastCmd (s : State) (g : BitVec 3) (r : Group) : (s.setGroup g r).lastCmd = s.lastCmd := rfl
@[simp] theorem State.setGroup_arg0 (s : State) (g : BitVec 3) (r : Group) : (s.setGroup g r).arg0 = s.arg0 := rfl
@[simp] theorem State.setGroup_arg1 (s : State) (g : BitVec 3) (r : Group) : (s.setGroup g r).arg1 = s.arg1 := rfl
@[simp] theorem State.setGroup_arg2 (s : State) (g : BitVec 3) (r : Group) : (s.setGroup g r).arg2 = s.arg2 := rfl
@[simp] theorem State.setGroup_res0 (s : State) (g : BitVec 3) (r : Group) : (s.setGroup g r).res0 = s.res0 := rfl
@[simp] theorem State.setGroup_res1 (s : State) (g : BitVec 3) (r : Group) : (s.setGroup g r).res1 = s.res1 := rfl
@[simp] theorem State.setGroup_errCmd (s : State) (g : BitVec 3) (r : Group) : (s.setGroup g r).errCmd = s.errCmd := rfl
@[simp] theorem State.setGroup_errInfo (s : State) (g : BitVec 3) (r : Group) : (s.setGroup g r).errInfo = s.errInfo := rfl
@[simp] theorem State.setGroup_brStart (s : State) (g : BitVec 3) (r : Group) : (s.setGroup g r).brStart = s.brStart := rfl
@[simp] theorem State.setGroup_brLen (s : State) (g : BitVec 3) (r : Group) : (s.setGroup g r).brLen = s.brLen := rfl
@[simp] theorem State.setGroup_brPos (s : State) (g : BitVec 3) (r : Group) : (s.setGroup g r).brPos = s.brPos := rfl
@[simp] theorem State.setGroup_cfgNch (s : State) (g : BitVec 3) (r : Group) : (s.setGroup g r).cfgNch = s.cfgNch := rfl
@[simp] theorem State.setGroup_cfgSpf (s : State) (g : BitVec 3) (r : Group) : (s.setGroup g r).cfgSpf = s.cfgSpf := rfl
@[simp] theorem State.setGroup_cfgMaxsub (s : State) (g : BitVec 3) (r : Group) : (s.setGroup g r).cfgMaxsub = s.cfgMaxsub := rfl
@[simp] theorem State.setGroup_remap6 (s : State) (g : BitVec 3) (r : Group) : (s.setGroup g r).remap6 = s.remap6 := rfl
@[simp] theorem State.setGroup_subN (s : State) (g : BitVec 3) (r : Group) : (s.setGroup g r).subN = s.subN := rfl
@[simp] theorem State.setGroup_subOff (s : State) (g : BitVec 3) (r : Group) : (s.setGroup g r).subOff = s.subOff := rfl
@[simp] theorem State.setGroup_subNb (s : State) (g : BitVec 3) (r : Group) : (s.setGroup g r).subNb = s.subNb := rfl
@[simp] theorem State.setGroup_subValid (s : State) (g : BitVec 3) (r : Group) : (s.setGroup g r).subValid = s.subValid := rfl
@[simp] theorem State.setGroup_qstep (s : State) (g : BitVec 3) (r : Group) : (s.setGroup g r).qstep = s.qstep := rfl
@[simp] theorem State.setGroup_chan (s : State) (g : BitVec 3) (r : Group) : (s.setGroup g r).chan = s.chan := rfl
@[simp] theorem State.setGroup_sfb (s : State) (g : BitVec 3) (r : Group) : (s.setGroup g r).sfb = s.sfb := rfl
@[simp] theorem State.setGroup_vlc (s : State) (g : BitVec 3) (r : Group) : (s.setGroup g r).vlc = s.vlc := rfl
@[simp] theorem State.setGroup_vlcRam (s : State) (g : BitVec 3) (r : Group) : (s.setGroup g r).vlcRam = s.vlcRam := rfl
@[simp] theorem State.setGroup_mem (s : State) (g : BitVec 3) (r : Group) : (s.setGroup g r).mem = s.mem := rfl
@[simp] theorem State.setGroup_host (s : State) (g : BitVec 3) (r : Group) : (s.setGroup g r).host = s.host := rfl
@[simp] theorem State.setGroup_reads (s : State) (g : BitVec 3) (r : Group) : (s.setGroup g r).reads = s.reads := rfl

/-! `State.setTable` -/

@[simp] theorem State.setTable_busy (s : State) (t : BitVec 4) (r : VlcStatus) : (s.setTable t r).busy = s.busy := rfl
@[simp] theorem State.setTable_done (s : State) (t : BitVec 4) (r : VlcStatus) : (s.setTable t r).done = s.done := rfl
@[simp] theorem State.setTable_haz (s : State) (t : BitVec 4) (r : VlcStatus) : (s.setTable t r).haz = s.haz := rfl
@[simp] theorem State.setTable_err (s : State) (t : BitVec 4) (r : VlcStatus) : (s.setTable t r).err = s.err := rfl
@[simp] theorem State.setTable_configured (s : State) (t : BitVec 4) (r : VlcStatus) : (s.setTable t r).configured = s.configured := rfl
@[simp] theorem State.setTable_ieDone (s : State) (t : BitVec 4) (r : VlcStatus) : (s.setTable t r).ieDone = s.ieDone := rfl
@[simp] theorem State.setTable_ieErr (s : State) (t : BitVec 4) (r : VlcStatus) : (s.setTable t r).ieErr = s.ieErr := rfl
@[simp] theorem State.setTable_lastCmd (s : State) (t : BitVec 4) (r : VlcStatus) : (s.setTable t r).lastCmd = s.lastCmd := rfl
@[simp] theorem State.setTable_arg0 (s : State) (t : BitVec 4) (r : VlcStatus) : (s.setTable t r).arg0 = s.arg0 := rfl
@[simp] theorem State.setTable_arg1 (s : State) (t : BitVec 4) (r : VlcStatus) : (s.setTable t r).arg1 = s.arg1 := rfl
@[simp] theorem State.setTable_arg2 (s : State) (t : BitVec 4) (r : VlcStatus) : (s.setTable t r).arg2 = s.arg2 := rfl
@[simp] theorem State.setTable_res0 (s : State) (t : BitVec 4) (r : VlcStatus) : (s.setTable t r).res0 = s.res0 := rfl
@[simp] theorem State.setTable_res1 (s : State) (t : BitVec 4) (r : VlcStatus) : (s.setTable t r).res1 = s.res1 := rfl
@[simp] theorem State.setTable_errCmd (s : State) (t : BitVec 4) (r : VlcStatus) : (s.setTable t r).errCmd = s.errCmd := rfl
@[simp] theorem State.setTable_errInfo (s : State) (t : BitVec 4) (r : VlcStatus) : (s.setTable t r).errInfo = s.errInfo := rfl
@[simp] theorem State.setTable_brStart (s : State) (t : BitVec 4) (r : VlcStatus) : (s.setTable t r).brStart = s.brStart := rfl
@[simp] theorem State.setTable_brLen (s : State) (t : BitVec 4) (r : VlcStatus) : (s.setTable t r).brLen = s.brLen := rfl
@[simp] theorem State.setTable_brPos (s : State) (t : BitVec 4) (r : VlcStatus) : (s.setTable t r).brPos = s.brPos := rfl
@[simp] theorem State.setTable_cfgNch (s : State) (t : BitVec 4) (r : VlcStatus) : (s.setTable t r).cfgNch = s.cfgNch := rfl
@[simp] theorem State.setTable_cfgSpf (s : State) (t : BitVec 4) (r : VlcStatus) : (s.setTable t r).cfgSpf = s.cfgSpf := rfl
@[simp] theorem State.setTable_cfgMaxsub (s : State) (t : BitVec 4) (r : VlcStatus) : (s.setTable t r).cfgMaxsub = s.cfgMaxsub := rfl
@[simp] theorem State.setTable_remap6 (s : State) (t : BitVec 4) (r : VlcStatus) : (s.setTable t r).remap6 = s.remap6 := rfl
@[simp] theorem State.setTable_subN (s : State) (t : BitVec 4) (r : VlcStatus) : (s.setTable t r).subN = s.subN := rfl
@[simp] theorem State.setTable_subOff (s : State) (t : BitVec 4) (r : VlcStatus) : (s.setTable t r).subOff = s.subOff := rfl
@[simp] theorem State.setTable_subNb (s : State) (t : BitVec 4) (r : VlcStatus) : (s.setTable t r).subNb = s.subNb := rfl
@[simp] theorem State.setTable_subValid (s : State) (t : BitVec 4) (r : VlcStatus) : (s.setTable t r).subValid = s.subValid := rfl
@[simp] theorem State.setTable_qstep (s : State) (t : BitVec 4) (r : VlcStatus) : (s.setTable t r).qstep = s.qstep := rfl
@[simp] theorem State.setTable_chan (s : State) (t : BitVec 4) (r : VlcStatus) : (s.setTable t r).chan = s.chan := rfl
@[simp] theorem State.setTable_sfb (s : State) (t : BitVec 4) (r : VlcStatus) : (s.setTable t r).sfb = s.sfb := rfl
@[simp] theorem State.setTable_grp (s : State) (t : BitVec 4) (r : VlcStatus) : (s.setTable t r).grp = s.grp := rfl
@[simp] theorem State.setTable_vlcRam (s : State) (t : BitVec 4) (r : VlcStatus) : (s.setTable t r).vlcRam = s.vlcRam := rfl
@[simp] theorem State.setTable_mem (s : State) (t : BitVec 4) (r : VlcStatus) : (s.setTable t r).mem = s.mem := rfl
@[simp] theorem State.setTable_host (s : State) (t : BitVec 4) (r : VlcStatus) : (s.setTable t r).host = s.host := rfl
@[simp] theorem State.setTable_reads (s : State) (t : BitVec 4) (r : VlcStatus) : (s.setTable t r).reads = s.reads := rfl

/-! Reading a register block after a replacement. -/

theorem State.channel_setChannel (s : State) (c c' : BitVec 3) (r : Channel) :
    (s.setChannel c r).channel c' = if c' = c then r else s.channel c' := by
  unfold State.channel State.setChannel
  simp only [Vector.getElem_set, BitVec.toNat_inj]
  by_cases h : c = c'
  · subst h; simp
  · rw [if_neg h, if_neg (fun e => h e.symm)]

@[simp] theorem State.channel_setChannel_self (s : State) (c : BitVec 3) (r : Channel) :
    (s.setChannel c r).channel c = r := by
  rw [State.channel_setChannel, if_pos rfl]

theorem State.group_setGroup (s : State) (g g' : BitVec 3) (r : Group) :
    (s.setGroup g r).group g' = if g' = g then r else s.group g' := by
  unfold State.group State.setGroup
  simp only [Vector.getElem_set, BitVec.toNat_inj]
  by_cases h : g = g'
  · subst h; simp
  · rw [if_neg h, if_neg (fun e => h e.symm)]

@[simp] theorem State.group_setGroup_self (s : State) (g : BitVec 3) (r : Group) :
    (s.setGroup g r).group g = r := by
  rw [State.group_setGroup, if_pos rfl]

theorem State.table_setTable (s : State) (t t' : BitVec 4) (r : VlcStatus) :
    (s.setTable t r).table t' = if t' = t then r else s.table t' := by
  unfold State.table State.setTable
  simp only [Vector.getElem_set, BitVec.toNat_inj]
  by_cases h : t = t'
  · subst h; simp
  · rw [if_neg h, if_neg (fun e => h e.symm)]

@[simp] theorem State.table_setTable_self (s : State) (t : BitVec 4) (r : VlcStatus) :
    (s.setTable t r).table t = r := by
  rw [State.table_setTable, if_pos rfl]

/-! The register blocks do not depend on the other fields. -/

theorem State.channel_congr {s t : State} (h : s.chan = t.chan) (c : BitVec 3) : s.channel c = t.channel c := by
  unfold State.channel; simp only [h]

theorem State.group_congr {s t : State} (h : s.grp = t.grp) (g : BitVec 3) : s.group g = t.group g := by
  unfold State.group; simp only [h]

theorem State.table_congr {s t : State} (h : s.vlc = t.vlc) (k : BitVec 4) : s.table k = t.table k := by
  unfold State.table; simp only [h]

/-! A register block after an update of something else. -/

@[simp] theorem State.setChannel_group (s : State) (c : BitVec 3) (r : Channel) (g₁ : BitVec 3) :
    (s.setChannel c r).group g₁ = s.group g₁ := rfl

@[simp] theorem State.setChannel_table (s : State) (c : BitVec 3) (r : Channel) (t₁ : BitVec 4) :
    (s.setChannel c r).table t₁ = s.table t₁ := rfl

@[simp] theorem State.setChannel_bound (s : State) (c : BitVec 3) (r : Channel) (b₁ : Nat) :
    (s.setChannel c r).bound b₁ = s.bound b₁ := rfl

@[simp] theorem State.setChannel_hasChannel (s : State) (c : BitVec 3) (r : Channel) (c₁ : BitVec 3) :
    (s.setChannel c r).hasChannel c₁ = s.hasChannel c₁ := rfl

@[simp] theorem State.setGroup_channel (s : State) (g : BitVec 3) (r : Group) (c₁ : BitVec 3) :
    (s.setGroup g r).channel c₁ = s.channel c₁ := rfl

@[simp] theorem State.setGroup_table (s : State) (g : BitVec 3) (r : Group) (t₁ : BitVec 4) :
    (s.setGroup g r).table t₁ = s.table t₁ := rfl

@[simp] theorem State.setGroup_bound (s : State) (g : BitVec 3) (r : Group) (b₁ : Nat) :
    (s.setGroup g r).bound b₁ = s.bound b₁ := rfl

@[simp] theorem State.setGroup_hasChannel (s : State) (g : BitVec 3) (r : Group) (c₁ : BitVec 3) :
    (s.setGroup g r).hasChannel c₁ = s.hasChannel c₁ := rfl

@[simp] theorem State.setTable_channel (s : State) (t : BitVec 4) (r : VlcStatus) (c₁ : BitVec 3) :
    (s.setTable t r).channel c₁ = s.channel c₁ := rfl

@[simp] theorem State.setTable_group (s : State) (t : BitVec 4) (r : VlcStatus) (g₁ : BitVec 3) :
    (s.setTable t r).group g₁ = s.group g₁ := rfl

@[simp] theorem State.setTable_bound (s : State) (t : BitVec 4) (r : VlcStatus) (b₁ : Nat) :
    (s.setTable t r).bound b₁ = s.bound b₁ := rfl

@[simp] theorem State.setTable_hasChannel (s : State) (t : BitVec 4) (r : VlcStatus) (c₁ : BitVec 3) :
    (s.setTable t r).hasChannel c₁ = s.hasChannel c₁ := rfl

@[simp] theorem State.complete_channel (s : State) (c₁ : BitVec 3) :
    s.complete.channel c₁ = s.channel c₁ := rfl

@[simp] theorem State.complete_group (s : State) (g₁ : BitVec 3) :
    s.complete.group g₁ = s.group g₁ := rfl

@[simp] theorem State.complete_table (s : State) (t₁ : BitVec 4) :
    s.complete.table t₁ = s.table t₁ := rfl

@[simp] theorem State.complete_bound (s : State) (b₁ : Nat) :
    s.complete.bound b₁ = s.bound b₁ := rfl

@[simp] theorem State.complete_hasChannel (s : State) (c₁ : BitVec 3) :
    s.complete.hasChannel c₁ = s.hasChannel c₁ := rfl

@[simp] theorem State.raise_channel (s : State) (e : CmdError) (c₁ : BitVec 3) :
    (s.raise e).channel c₁ = s.channel c₁ := rfl

@[simp] theorem State.raise_group (s : State) (e : CmdError) (g₁ : BitVec 3) :
    (s.raise e).group g₁ = s.group g₁ := rfl

@[simp] theorem State.raise_table (s : State) (e : CmdError) (t₁ : BitVec 4) :
    (s.raise e).table t₁ = s.table t₁ := rfl

@[simp] theorem State.raise_bound (s : State) (e : CmdError) (b₁ : Nat) :
    (s.raise e).bound b₁ = s.bound b₁ := rfl

@[simp] theorem State.raise_hasChannel (s : State) (e : CmdError) (c₁ : BitVec 3) :
    (s.raise e).hasChannel c₁ = s.hasChannel c₁ := rfl

@[simp] theorem State.clearError_channel (s : State) (c₁ : BitVec 3) :
    s.clearError.channel c₁ = s.channel c₁ := rfl

@[simp] theorem State.clearError_group (s : State) (g₁ : BitVec 3) :
    s.clearError.group g₁ = s.group g₁ := rfl

@[simp] theorem State.clearError_table (s : State) (t₁ : BitVec 4) :
    s.clearError.table t₁ = s.table t₁ := rfl

@[simp] theorem State.clearError_bound (s : State) (b₁ : Nat) :
    s.clearError.bound b₁ = s.bound b₁ := rfl

@[simp] theorem State.clearError_hasChannel (s : State) (c₁ : BitVec 3) :
    s.clearError.hasChannel c₁ = s.hasChannel c₁ := rfl

@[simp] theorem State.issue_channel (s : State) (w : Word) (c₁ : BitVec 3) :
    (s.issue w).channel c₁ = s.channel c₁ := rfl

@[simp] theorem State.issue_group (s : State) (w : Word) (g₁ : BitVec 3) :
    (s.issue w).group g₁ = s.group g₁ := rfl

@[simp] theorem State.issue_table (s : State) (w : Word) (t₁ : BitVec 4) :
    (s.issue w).table t₁ = s.table t₁ := rfl

@[simp] theorem State.issue_bound (s : State) (w : Word) (b₁ : Nat) :
    (s.issue w).bound b₁ = s.bound b₁ := rfl

@[simp] theorem State.issue_hasChannel (s : State) (w : Word) (c₁ : BitVec 3) :
    (s.issue w).hasChannel c₁ = s.hasChannel c₁ := rfl

end Sys2Proof.Machine
end

