-- ==== Sys2Proof/Laws/Run.lean ====
section
/-! SUPPORT. What the frame of every command can do (R222-R224): a command is dropped, raises, or commits. -/

namespace Sys2Proof.Machine

/-- The command had no effect of its own: the lock dropped it (R223) or it raised (R224). -/
def Ended (s u : State) : Prop :=
  (s.err ≠ 0 ∧ u = s.complete) ∨ (s.err = 0 ∧ ∃ e : CmdError, u = (s.raise e).complete)

/-- The command passed the lock and its effect `t` was committed. -/
def Committed (s t u : State) : Prop := s.err = 0 ∧ u = t.complete

theorem run_locked {s : State} (h : s.err ≠ 0) (r : Except CmdError State) :
    run s r = .next s.complete := if_pos h

theorem run_ok {s : State} (h : s.err = 0) (t : State) : run s (.ok t) = .next t.complete :=
  if_neg (by simp [h])

theorem run_error {s : State} (h : s.err = 0) (e : CmdError) :
    run s (.error e) = .next (s.raise e).complete := if_neg (by simp [h])

theorem runConfigured_eq {s : State} (h : s.configured = true) (r : Except CmdError State) :
    runConfigured s r = run s r := by simp [runConfigured, h]

theorem runConfigured_unconfigured {s : State} (h : s.configured = false) (r : Except CmdError State) :
    runConfigured s r = run s (.error .notConfigured) := by simp [runConfigured, h]

/-- A command never stops: it always has a next state. -/
theorem run_next (s : State) (r : Except CmdError State) : ∃ u, run s r = .next u := by
  unfold run; split <;> exact ⟨_, rfl⟩

theorem run_error_cases {s u : State} {e : CmdError} (h : run s (.error e) = .next u) : Ended s u := by
  by_cases he : s.err = 0
  · rw [run_error he] at h; exact .inr ⟨he, e, (Host.Outcome.next.inj h).symm⟩
  · rw [run_locked he] at h; exact .inl ⟨he, (Host.Outcome.next.inj h).symm⟩

theorem run_ok_cases {s t u : State} (h : run s (.ok t) = .next u) : Ended s u ∨ Committed s t u := by
  by_cases he : s.err = 0
  · rw [run_ok he] at h; exact .inr ⟨he, (Host.Outcome.next.inj h).symm⟩
  · rw [run_locked he] at h; exact .inl (.inl ⟨he, (Host.Outcome.next.inj h).symm⟩)

/-- A check at the head of a command: it raises, or the rest runs and the check passed. -/
theorem run_check_cases {s u : State} {c : Prop} [Decidable c] {e : CmdError}
    {r : Except CmdError State} (h : run s (if c then .error e else r) = .next u) :
    Ended s u ∨ (¬c ∧ run s r = .next u) := by
  split at h
  · exact .inl (run_error_cases h)
  · exact .inr ⟨‹_›, h⟩

theorem runConfigured_cases {s u : State} {r : Except CmdError State}
    (h : runConfigured s r = .next u) : Ended s u ∨ (s.configured = true ∧ run s r = .next u) := by
  unfold runConfigured at h
  split at h
  · exact .inr ⟨‹_›, h⟩
  · exact .inl (run_error_cases h)

end Sys2Proof.Machine
end

