-- ==== Sys2Proof/Laws/Exec.lean ====
section
/-! SUPPORT. One inversion lemma per meaning: if it answers next u, either it had no effect of its own (`Ended`)
or its checks passed and `u` is its committed effect. Frames and invariants are derived from these. -/

namespace Sys2Proof.Machine

theorem execNop_cases {s u : State} (h : execNop s = .next u) : Ended s u ∨ Committed s s u :=
  run_ok_cases h

theorem execBrInit_cases {s u : State} (h : execBrInit s = .next u) :
    Ended s u ∨ (s.arg0.toNat ≤ 524288 ∧ s.arg0.toNat + s.arg1.toNat ≤ 524288 ∧
      Committed s { s with brStart := s.arg0.setWidth 20, brLen := s.arg1.setWidth 20, brPos := 0 } u) := by
  rcases run_check_cases h with h | ⟨hc, h⟩
  · exact .inl h
  · simp only [Bool.or_eq_true, decide_eq_true_eq, not_or, Nat.not_lt] at hc
    rcases run_ok_cases h with h | h
    · exact .inl h
    · exact .inr ⟨hc.1, hc.2, h⟩

theorem execBrRead_cases {n : Nat} {s u : State} (h : execBrRead n s = .next u) :
    Ended s u ∨ (n ≤ 32 ∧ s.brPos.toNat + n ≤ s.brLen.toNat ∧
      Committed s { s with
        res0 := BitVec.ofNat 32 (s.windowBits s.brPos.toNat n)
        brPos := s.brPos + BitVec.ofNat 20 n } u) := by
  rcases run_check_cases h with h | ⟨h₁, h⟩
  · exact .inl h
  rcases run_check_cases h with h | ⟨h₂, h⟩
  · exact .inl h
  rcases run_ok_cases h with h | h
  · exact .inl h
  · exact .inr ⟨Nat.not_lt.mp h₁, Nat.not_lt.mp h₂, h⟩

theorem execBrPeek_cases {n : Nat} {s u : State} (h : execBrPeek n s = .next u) :
    Ended s u ∨ (n ≤ 32 ∧ s.brPos.toNat + n ≤ s.brLen.toNat ∧
      Committed s { s with res0 := BitVec.ofNat 32 (s.windowBits s.brPos.toNat n) } u) := by
  rcases run_check_cases h with h | ⟨h₁, h⟩
  · exact .inl h
  rcases run_check_cases h with h | ⟨h₂, h⟩
  · exact .inl h
  rcases run_ok_cases h with h | h
  · exact .inl h
  · exact .inr ⟨Nat.not_lt.mp h₁, Nat.not_lt.mp h₂, h⟩

theorem execBrSkip_cases {n : Nat} {s u : State} (h : execBrSkip n s = .next u) :
    Ended s u ∨ (s.brPos.toNat + n ≤ s.brLen.toNat ∧
      Committed s { s with brPos := s.brPos + BitVec.ofNat 20 n } u) := by
  rcases run_check_cases h with h | ⟨h₁, h⟩
  · exact .inl h
  rcases run_ok_cases h with h | h
  · exact .inl h
  · exact .inr ⟨Nat.not_lt.mp h₁, h⟩

theorem execBrTell_cases {s u : State} (h : execBrTell s = .next u) :
    Ended s u ∨ Committed s { s with res0 := s.brPos.setWidth 32 } u :=
  run_ok_cases h

theorem execBrVlc_cases {t : BitVec 4} {s u : State} (h : execBrVlc t s = .next u) :
    Ended s u ∨ ((s.table t).state = 2 ∧ ∃ e,
      s.vlcMatch (s.vlcEntries t)
        (min (s.table t).maxlen.toNat (s.brLen.toNat - s.brPos.toNat)) = some e ∧
      Committed s { s with
        res0 := e.sym.setWidth 32
        res1 := e.len.setWidth 32
        brPos := s.brPos + e.len.setWidth 20 } u) := by
  rcases run_check_cases h with h | ⟨h₁, h⟩
  · exact .inl h
  split at h
  · rename_i e he
    rcases run_ok_cases h with h | h
    · exact .inl h
    · exact .inr ⟨Decidable.not_not.mp h₁, e, he, h⟩
  · split at h <;> exact .inl (run_error_cases h)

theorem execVlcBegin_cases {t : BitVec 4} {maxlen : Nat} {s u : State}
    (h : execVlcBegin t maxlen s = .next u) :
    Ended s u ∨ (1 ≤ maxlen ∧ maxlen ≤ 32 ∧
      Committed s (s.setTable t { state := 1, maxlen := BitVec.ofNat 6 maxlen, count := 0 }) u) := by
  rcases run_check_cases h with h | ⟨hc, h⟩
  · exact .inl h
  simp only [Bool.or_eq_true, decide_eq_true_eq, not_or, Nat.not_lt] at hc
  rcases run_ok_cases h with h | h
  · exact .inl h
  · exact .inr ⟨hc.1, hc.2, h⟩

theorem execVlcAdd_cases {t : BitVec 4} {s u : State} (h : execVlcAdd t s = .next u) :
    Ended s u ∨ ((s.table t).state = 1 ∧ 1 ≤ (argLen s.arg1).toNat ∧
      (argLen s.arg1).toNat ≤ (s.table t).maxlen.toNat ∧
      s.arg0.toNat < 2 ^ (argLen s.arg1).toNat ∧ (s.table t).count.toNat ≠ 512 ∧
      Committed s { s.setTable t { s.table t with count := (s.table t).count + 1 } with
        vlcRam := storeWrite VlcEntry.zero s.vlcRam (vlcKey t (s.table t).count.toNat)
          [{ code := s.arg0, len := argLen s.arg1, sym := argSym s.arg1 }] } u) := by
  rcases run_check_cases h with h | ⟨h₁, h⟩
  · exact .inl h
  rcases run_check_cases h with h | ⟨h₂, h⟩
  · exact .inl h
  simp only [Bool.or_eq_true, decide_eq_true_eq, not_or, Nat.not_lt, Nat.not_le] at h₂
  rcases run_ok_cases h with h | h
  · exact .inl h
  · exact .inr ⟨Decidable.not_not.mp h₁, h₂.1.1.1, h₂.1.1.2, h₂.1.2, h₂.2, h⟩

theorem execVlcEnd_cases {t : BitVec 4} {s u : State} (h : execVlcEnd t s = .next u) :
    Ended s u ∨ ((s.table t).state = 1 ∧ (s.table t).count.toNat ≠ 0 ∧
      prefixFree (s.vlcEntries t) = true ∧
      Committed s (s.setTable t { s.table t with state := 2 }) u) := by
  rcases run_check_cases h with h | ⟨h₁, h⟩
  · exact .inl h
  rcases run_check_cases h with h | ⟨h₂, h⟩
  · exact .inl h
  simp only [Bool.or_eq_true, decide_eq_true_eq, not_or, Bool.not_eq_true', Bool.not_eq_false] at h₂
  rcases run_ok_cases h with h | h
  · exact .inl h
  · exact .inr ⟨Decidable.not_not.mp h₁, h₂.1, h₂.2, h⟩

theorem execCfg_cases {s u : State} (h : execCfg s = .next u) :
    Ended s u ∨ (1 ≤ s.arg0.toNat ∧ s.arg0.toNat ≤ 8 ∧
      isPow2 s.arg1.toNat = true ∧ 128 ≤ s.arg1.toNat ∧ s.arg1.toNat ≤ 4096 ∧
      isPow2 s.arg2.toNat = true ∧ 128 ≤ s.arg1.toNat / s.arg2.toNat ∧
      Committed s (s.configure s.arg0.toNat s.arg1.toNat s.arg2.toNat) u) := by
  rcases run_check_cases h with h | ⟨h₁, h⟩
  · exact .inl h
  rcases run_check_cases h with h | ⟨h₂, h⟩
  · exact .inl h
  rcases run_check_cases h with h | ⟨h₃, h⟩
  · exact .inl h
  simp only [Bool.or_eq_true, decide_eq_true_eq, not_or, Nat.not_lt, Bool.not_eq_true',
    Bool.not_eq_false] at h₁ h₂ h₃
  rcases run_ok_cases h with h | h
  · exact .inl h
  · exact .inr ⟨h₁.1, h₁.2, h₂.1.1, h₂.1.2, h₂.2, h₃.1, h₃.2, h⟩

theorem execRemapSet_cases {s u : State} (h : execRemapSet s = .next u) :
    Ended s u ∨ (isRemap s.arg0 = true ∧
      Committed s { s with remap6 := s.arg0.extractLsb' 0 24 } u) := by
  rcases run_check_cases h with h | ⟨h₁, h⟩
  · exact .inl h
  rcases run_ok_cases h with h | h
  · exact .inl h
  · exact .inr ⟨by simpa using h₁, h⟩

theorem execErrClr_cases {s u : State} (h : execErrClr s = .next u) : u = s.clearError.complete :=
  (Host.Outcome.next.inj h).symm

theorem execSubSet_cases {nb : Nat} {s u : State} (h : execSubSet nb s = .next u) :
    Ended s u ∨ (s.configured = true ∧ 1 ≤ nb ∧ nb ≤ 32 ∧ isPow2 s.arg0.toNat = true ∧
      s.cfgSpf.toNat / s.cfgMaxsub.toNat ≤ s.arg0.toNat ∧ s.arg0.toNat ≤ s.cfgSpf.toNat ∧
      s.arg1.toNat + s.arg0.toNat ≤ s.cfgSpf.toNat ∧
      Committed s { s with
        subN := BitVec.ofNat 13 s.arg0.toNat
        subOff := BitVec.ofNat 13 s.arg1.toNat
        subNb := BitVec.ofNat 6 nb
        subValid := true } u) := by
  rcases runConfigured_cases h with h | ⟨h₀, h⟩
  · exact .inl h
  rcases run_check_cases h with h | ⟨h₁, h⟩
  · exact .inl h
  rcases run_check_cases h with h | ⟨h₂, h⟩
  · exact .inl h
  rcases run_check_cases h with h | ⟨h₃, h⟩
  · exact .inl h
  simp only [Bool.or_eq_true, decide_eq_true_eq, not_or, Nat.not_lt, Bool.not_eq_true',
    Bool.not_eq_false] at h₁ h₂ h₃
  rcases run_ok_cases h with h | h
  · exact .inl h
  · exact .inr ⟨h₀, h₁.1, h₁.2, h₂.1.1, h₂.1.2, h₂.2, h₃, h⟩

theorem execSfbSet_cases {b : Nat} {s u : State} (h : execSfbSet b s = .next u) :
    Ended s u ∨ (s.configured = true ∧ b ≤ 32 ∧ s.arg0.toNat ≤ 4096 ∧
      Committed s { s with sfb := s.sfb.setIfInBounds b (s.arg0.setWidth 13) } u) := by
  rcases runConfigured_cases h with h | ⟨h₀, h⟩
  · exact .inl h
  rcases run_check_cases h with h | ⟨h₁, h⟩
  · exact .inl h
  simp only [Bool.or_eq_true, decide_eq_true_eq, not_or, Nat.not_lt] at h₁
  rcases run_ok_cases h with h | h
  · exact .inl h
  · exact .inr ⟨h₀, h₁.1, h₁.2, h⟩

theorem execQsSet_cases {s u : State} (h : execQsSet s = .next u) :
    Ended s u ∨ (s.configured = true ∧ isInt16 s.arg0 = true ∧
      Committed s { s with qstep := low16 s.arg0 } u) := by
  rcases runConfigured_cases h with h | ⟨h₀, h⟩
  · exact .inl h
  rcases run_check_cases h with h | ⟨h₁, h⟩
  · exact .inl h
  rcases run_ok_cases h with h | h
  · exact .inl h
  · exact .inr ⟨h₀, by simpa using h₁, h⟩

theorem execChQset_cases {c : BitVec 3} {s u : State} (h : execChQset c s = .next u) :
    Ended s u ∨ (s.configured = true ∧ s.hasChannel c = true ∧ isInt16 s.arg0 = true ∧
      s.arg1.toNat ≤ 255 ∧ isInt16 s.arg2 = true ∧
      Committed s (s.setChannel c { s.channel c with
        qmod := low16 s.arg0
        sfstep := s.arg1.setWidth 8
        maxsf := low16 s.arg2 }) u) := by
  rcases runConfigured_cases h with h | ⟨h₀, h⟩
  · exact .inl h
  rcases run_check_cases h with h | ⟨h₁, h⟩
  · exact .inl h
  rcases run_check_cases h with h | ⟨h₂, h⟩
  · exact .inl h
  simp only [Bool.or_eq_true, decide_eq_true_eq, not_or, Nat.not_lt, Bool.not_eq_true',
    Bool.not_eq_false] at h₁ h₂
  rcases run_ok_cases h with h | h
  · exact .inl h
  · exact .inr ⟨h₀, h₁, h₂.1.1, h₂.1.2, h₂.2, h⟩

theorem execSfSet_cases {c : BitVec 3} {b : BitVec 5} {s u : State} (h : execSfSet c b s = .next u) :
    Ended s u ∨ (s.configured = true ∧ s.hasChannel c = true ∧ isInt16 s.arg0 = true ∧
      Committed s (s.setChannel c { s.channel c with
        sf := (s.channel c).sf.setIfInBounds b.toNat (low16 s.arg0) }) u) := by
  rcases runConfigured_cases h with h | ⟨h₀, h⟩
  · exact .inl h
  rcases run_check_cases h with h | ⟨h₁, h⟩
  · exact .inl h
  rcases run_check_cases h with h | ⟨h₂, h⟩
  · exact .inl h
  rcases run_ok_cases h with h | h
  · exact .inl h
  · exact .inr ⟨h₀, by simpa using h₁, by simpa using h₂, h⟩

theorem execCoefClr_cases {c : BitVec 3} {s u : State} (h : execCoefClr c s = .next u) :
    Ended s u ∨ (s.configured = true ∧ s.hasChannel c = true ∧
      Committed s { s with mem := eraseBytes s.mem (coefAddr c.toNat 0) 16384 } u) := by
  rcases runConfigured_cases h with h | ⟨h₀, h⟩
  · exact .inl h
  rcases run_check_cases h with h | ⟨h₁, h⟩
  · exact .inl h
  rcases run_ok_cases h with h | h
  · exact .inl h
  · exact .inr ⟨h₀, by simpa using h₁, h⟩

theorem execPrevSet_cases {c : BitVec 3} {s u : State} (h : execPrevSet c s = .next u) :
    Ended s u ∨ (s.configured = true ∧ s.hasChannel c = true ∧ isPow2 s.arg0.toNat = true ∧
      128 ≤ s.arg0.toNat ∧ s.arg0.toNat ≤ s.cfgSpf.toNat ∧
      Committed s (s.setChannel c { s.channel c with prevLen := BitVec.ofNat 13 s.arg0.toNat }) u) := by
  rcases runConfigured_cases h with h | ⟨h₀, h⟩
  · exact .inl h
  rcases run_check_cases h with h | ⟨h₁, h⟩
  · exact .inl h
  rcases run_check_cases h with h | ⟨h₂, h⟩
  · exact .inl h
  simp only [Bool.or_eq_true, decide_eq_true_eq, not_or, Nat.not_lt, Bool.not_eq_true',
    Bool.not_eq_false] at h₁ h₂
  rcases run_ok_cases h with h | h
  · exact .inl h
  · exact .inr ⟨h₀, h₁, h₂.1.1, h₂.1.2, h₂.2, h⟩

theorem execGrpSet_cases {g : BitVec 3} {s u : State} (h : execGrpSet g s = .next u) :
    Ended s u ∨ (s.configured = true ∧ 1 ≤ (argSize s.arg1).toNat ∧
      (argSize s.arg1).toNat ≤ s.cfgNch.toNat ∧
      membersOk (argMembers s.arg0 (argSize s.arg1).toNat) s.cfgNch.toNat = true ∧
      (argOffscale s.arg1 = true → (argSize s.arg1).toNat = 2) ∧
      Committed s (s.setGroup g
        { ch := BitVec.ofNat 32 (s.arg0.toNat % 16 ^ (argSize s.arg1).toNat)
          size := argSize s.arg1
          offscale := argOffscale s.arg1
          mask := s.arg2
          sgn := 0
          ang := Vector.replicate 28 0
          mat := identity (argSize s.arg1).toNat }) u) := by
  rcases runConfigured_cases h with h | ⟨h₀, h⟩
  · exact .inl h
  rcases run_check_cases h with h | ⟨h₁, h⟩
  · exact .inl h
  rcases run_check_cases h with h | ⟨h₂, h⟩
  · exact .inl h
  rcases run_check_cases h with h | ⟨h₃, h⟩
  · exact .inl h
  simp only [Bool.or_eq_true, Bool.and_eq_true, decide_eq_true_eq, not_or, Nat.not_lt,
    Bool.not_eq_true', Bool.not_eq_false, not_and, Decidable.not_not] at h₁ h₂ h₃
  rcases run_ok_cases h with h | h
  · exact .inl h
  · exact .inr ⟨h₀, h₁.1, h₁.2, h₂, h₃, h⟩

theorem execMxIdent_cases {g : BitVec 3} {s u : State} (h : execMxIdent g s = .next u) :
    Ended s u ∨ (s.configured = true ∧ (s.group g).count ≠ 0 ∧
      Committed s (s.setGroup g { s.group g with mat := identity (s.group g).count }) u) := by
  rcases runConfigured_cases h with h | ⟨h₀, h⟩
  · exact .inl h
  rcases run_check_cases h with h | ⟨h₁, h⟩
  · exact .inl h
  rcases run_ok_cases h with h | h
  · exact .inl h
  · exact .inr ⟨h₀, h₁, h⟩

theorem execMxMs45_cases {g : BitVec 3} {s u : State} (h : execMxMs45 g s = .next u) :
    Ended s u ∨ (s.configured = true ∧ (s.group g).count = 2 ∧
      Committed s (s.setGroup g { s.group g with mat := ms45 }) u) := by
  rcases runConfigured_cases h with h | ⟨h₀, h⟩
  · exact .inl h
  rcases run_check_cases h with h | ⟨_, h⟩
  · exact .inl h
  rcases run_check_cases h with h | ⟨h₂, h⟩
  · exact .inl h
  rcases run_ok_cases h with h | h
  · exact .inl h
  · exact .inr ⟨h₀, Decidable.not_not.mp h₂, h⟩

theorem execMxWrite_cases {g i j : BitVec 3} {s u : State} (h : execMxWrite g i j s = .next u) :
    Ended s u ∨ (s.configured = true ∧ i.toNat < (s.group g).count ∧ j.toNat < (s.group g).count ∧
      Committed s (s.setGroup g { s.group g with
        mat := matSet (s.group g).mat i.toNat j.toNat s.arg0 }) u) := by
  rcases runConfigured_cases h with h | ⟨h₀, h⟩
  · exact .inl h
  rcases run_check_cases h with h | ⟨_, h⟩
  · exact .inl h
  rcases run_check_cases h with h | ⟨h₂, h⟩
  · exact .inl h
  simp only [Bool.or_eq_true, decide_eq_true_eq, not_or, Nat.not_le] at h₂
  rcases run_ok_cases h with h | h
  · exact .inl h
  · exact .inr ⟨h₀, h₂.1, h₂.2, h⟩

theorem execMxAng_cases {g : BitVec 3} {k : BitVec 5} {a : BitVec 6} {s u : State}
    (h : execMxAng g k a s = .next u) :
    Ended s u ∨ (s.configured = true ∧
      k.toNat < (s.group g).count * ((s.group g).count - 1) / 2 ∧
      Committed s (s.setGroup g { s.group g with
        ang := (s.group g).ang.setIfInBounds k.toNat a }) u) := by
  rcases runConfigured_cases h with h | ⟨h₀, h⟩
  · exact .inl h
  rcases run_check_cases h with h | ⟨_, h⟩
  · exact .inl h
  rcases run_check_cases h with h | ⟨h₂, h⟩
  · exact .inl h
  rcases run_ok_cases h with h | h
  · exact .inl h
  · exact .inr ⟨h₀, Nat.not_le.mp h₂, h⟩

theorem execMxSigns_cases {g : BitVec 3} {sg : BitVec 8} {s u : State}
    (h : execMxSigns g sg s = .next u) :
    Ended s u ∨ (s.configured = true ∧ (s.group g).count ≠ 0 ∧ sg.toNat < 2 ^ (s.group g).count ∧
      Committed s (s.setGroup g { s.group g with sgn := sg }) u) := by
  rcases runConfigured_cases h with h | ⟨h₀, h⟩
  · exact .inl h
  rcases run_check_cases h with h | ⟨h₁, h⟩
  · exact .inl h
  rcases run_check_cases h with h | ⟨h₂, h⟩
  · exact .inl h
  rcases run_ok_cases h with h | h
  · exact .inl h
  · exact .inr ⟨h₀, h₁, Nat.not_le.mp h₂, h⟩

theorem execMxRot_cases {g : BitVec 3} {s u : State} (h : execMxRot g s = .next u) :
    Ended s u ∨ (s.configured = true ∧ (s.group g).count ≠ 0 ∧
      Committed s (s.setGroup g { s.group g with
        mat := rotationMatrix (s.group g).count (s.group g).sgn (s.group g).ang }) u) := by
  rcases runConfigured_cases h with h | ⟨h₀, h⟩
  · exact .inl h
  rcases run_check_cases h with h | ⟨h₁, h⟩
  · exact .inl h
  rcases run_ok_cases h with h | h
  · exact .inl h
  · exact .inr ⟨h₀, h₁, h⟩

theorem execMxApply_cases {g : BitVec 3} {s u : State} (h : execMxApply g s = .next u) :
    Ended s u ∨ (s.configured = true ∧ (s.group g).count ≠ 0 ∧ s.subValid = true ∧ s.sfbOk = true ∧
      Committed s { s with
        mem := (List.range s.subNb.toNat).foldl (applyBand s (s.group g)) s.mem } u) := by
  rcases runConfigured_cases h with h | ⟨h₀, h⟩
  · exact .inl h
  rcases run_check_cases h with h | ⟨h₁, h⟩
  · exact .inl h
  rcases run_check_cases h with h | ⟨h₂, h⟩
  · exact .inl h
  rcases run_check_cases h with h | ⟨h₃, h⟩
  · exact .inl h
  rcases run_ok_cases h with h | h
  · exact .inl h
  · exact .inr ⟨h₀, h₁, by simpa using h₂, by simpa using h₃, h⟩

theorem execDequant_cases {c : BitVec 3} {s u : State} (h : execDequant c s = .next u) :
    Ended s u ∨ (s.configured = true ∧ s.hasChannel c = true ∧ s.subValid = true ∧ s.sfbOk = true ∧
      0 ≤ s.quantStep c ∧
      Committed s { s with
        mem := eraseBytes ((List.range s.subNb.toNat).foldl (dequantBand s c) s.mem)
          (coefAddr c.toNat (s.bound s.subNb.toNat))
          (4 * (s.subN.toNat - s.bound s.subNb.toNat)) } u) := by
  rcases runConfigured_cases h with h | ⟨h₀, h⟩
  · exact .inl h
  rcases run_check_cases h with h | ⟨h₁, h⟩
  · exact .inl h
  rcases run_check_cases h with h | ⟨h₂, h⟩
  · exact .inl h
  rcases run_check_cases h with h | ⟨h₃, h⟩
  · exact .inl h
  rcases run_check_cases h with h | ⟨h₄, h⟩
  · exact .inl h
  rcases run_ok_cases h with h | h
  · exact .inl h
  · exact .inr ⟨h₀, by simpa using h₁, by simpa using h₂, by simpa using h₃, by omega, h⟩

theorem execImdct_cases {c : BitVec 3} {s u : State} (h : execImdct c s = .next u) :
    Ended s u ∨ (s.configured = true ∧ s.hasChannel c = true ∧ s.subValid = true ∧
      Committed s { s with
        mem := writeWords s.mem (pcmAddr c.toNat s.blockBase)
          ((List.range s.subN.toNat).map (imdctSample s.subN.toNat (s.coefs c))) } u) := by
  rcases runConfigured_cases h with h | ⟨h₀, h⟩
  · exact .inl h
  rcases run_check_cases h with h | ⟨h₁, h⟩
  · exact .inl h
  rcases run_check_cases h with h | ⟨h₂, h⟩
  · exact .inl h
  rcases run_ok_cases h with h | h
  · exact .inl h
  · exact .inr ⟨h₀, by simpa using h₁, by simpa using h₂, h⟩

theorem execWindow_cases {c : BitVec 3} {s u : State} (h : execWindow c s = .next u) :
    Ended s u ∨ (s.configured = true ∧ s.hasChannel c = true ∧ s.subValid = true ∧
      ∃ w, w = min (s.channel c).prevLen.toNat s.subN.toNat ∧
      Committed s { s.setChannel c { s.channel c with prevLen := s.subN } with
        mem := writeWords s.mem (pcmAddr c.toNat (s.blockBase - w / 2))
          ((List.range (2 * (w / 2))).map
            (crossFade s.mem c.toNat (s.blockBase - w / 2) w)) } u) := by
  rcases runConfigured_cases h with h | ⟨h₀, h⟩
  · exact .inl h
  rcases run_check_cases h with h | ⟨h₁, h⟩
  · exact .inl h
  rcases run_check_cases h with h | ⟨h₂, h⟩
  · exact .inl h
  rcases run_ok_cases h with h | h
  · exact .inl h
  · exact .inr ⟨h₀, by simpa using h₁, by simpa using h₂, _, rfl, h⟩

theorem execPcmZero_cases {c : BitVec 3} {s u : State} (h : execPcmZero c s = .next u) :
    Ended s u ∨ (s.configured = true ∧ s.hasChannel c = true ∧
      s.arg0.toNat + s.arg1.toNat ≤ s.cfgSpf.toNat ∧
      Committed s { s with
        mem := eraseBytes s.mem (pcmAddr c.toNat (s.cfgSpf.toNat / 2 + s.arg0.toNat))
          (4 * s.arg1.toNat) } u) := by
  rcases runConfigured_cases h with h | ⟨h₀, h⟩
  · exact .inl h
  rcases run_check_cases h with h | ⟨h₁, h⟩
  · exact .inl h
  rcases run_check_cases h with h | ⟨h₂, h⟩
  · exact .inl h
  rcases run_ok_cases h with h | h
  · exact .inl h
  · exact .inr ⟨h₀, by simpa using h₁, Nat.not_lt.mp h₂, h⟩

theorem execOutEmit_cases {s u : State} (h : execOutEmit s = .next u) :
    Ended s u ∨ (s.configured = true ∧
      Committed s { s with
        mem := (List.range s.cfgNch.toNat).foldl (shiftHistory s.cfgSpf.toNat)
          (writeBytes s.mem (outAddr 0)
            (((List.range (s.cfgNch.toNat * s.cfgSpf.toNat)).map s.outSample).flatMap
              sampleBytes)) } u) := by
  rcases runConfigured_cases h with h | ⟨h₀, h⟩
  · exact .inl h
  rcases run_ok_cases h with h | h
  · exact .inl h
  · exact .inr ⟨h₀, h⟩

end Sys2Proof.Machine
end

