-- ==== Sys2Proof/Laws/Store.lean ====
section
/-! SUPPORT. What the sparse stores do: reads after writes and erasures, and the canonical form is kept. -/

namespace Sys2Proof.Machine

variable {α : Type} {d : α}

/-- A key is listed. -/
def listed (m : List (Nat × α)) (k : Nat) : Bool := m.any fun c => decide (c.1 = k)

theorem storeGet_append (m₁ m₂ : List (Nat × α)) (k : Nat) :
    storeGet d (m₁ ++ m₂) k = if listed m₁ k then storeGet d m₁ k else storeGet d m₂ k := by
  induction m₁ with
  | nil => simp [listed]
  | cons c rest ih =>
    obtain ⟨a, v⟩ := c
    by_cases h : a = k
    · simp [storeGet, listed, h]
    · have e : listed ((a, v) :: rest) k = listed rest k := by simp [listed, h]
      rw [e, List.cons_append, storeGet, storeGet, if_neg h, if_neg h, ih]

theorem storeGet_unlisted (m : List (Nat × α)) (k : Nat) (h : listed m k = false) :
    storeGet d m k = d := by
  induction m with
  | nil => rfl
  | cons c rest ih =>
    obtain ⟨a, v⟩ := c
    simp only [listed, List.any_cons, Bool.or_eq_false_iff, decide_eq_false_iff_not] at h
    simp [storeGet, h.1, ih h.2]

theorem listed_filter (m : List (Nat × α)) (p : Nat → Bool) (k : Nat) :
    listed (m.filter fun c => p c.1) k = (p k && listed m k) := by
  induction m with
  | nil => simp [listed]
  | cons c rest ih =>
    obtain ⟨a, v⟩ := c
    simp only [listed] at ih
    by_cases hp : p a <;> by_cases hak : a = k
    · subst hak; simp [listed, hp]
    · simp [listed, hp, ih, hak]
    · subst hak; simp [listed, hp, ih]
    · simp [listed, hp, ih, hak]

theorem storeGet_filter (m : List (Nat × α)) (p : Nat → Bool) (k : Nat) :
    storeGet d (m.filter fun c => p c.1) k = if p k then storeGet d m k else d := by
  by_cases h : p k
  · rw [if_pos h]
    induction m with
    | nil => rfl
    | cons c rest ih =>
      obtain ⟨a, v⟩ := c
      by_cases hp : p a
      · simp [hp, storeGet, ih]
      · have hak : a ≠ k := by rintro rfl; exact hp h
        simp [hp, storeGet, ih, hak]
  · rw [if_neg h]
    exact storeGet_unlisted _ _ (by rw [listed_filter]; simp [h])

/-- What a store erasure does, once. -/
theorem storeGet_erase (m : List (Nat × α)) (a n k : Nat) :
    storeGet d (storeErase m a n) k = if a ≤ k ∧ k < a + n then d else storeGet d m k := by
  unfold storeErase
  rw [storeGet_append, listed_filter m (fun x => decide (x < a)),
    storeGet_filter m (fun x => decide (x < a)), storeGet_filter m (fun x => decide (a + n ≤ x))]
  cases hl : listed m k
  · rw [storeGet_unlisted m k hl]; simp
  · simp only [Bool.and_true, decide_eq_true_eq]
    split_ifs <;> first | rfl | omega

section

variable [DecidableEq α]

theorem storeGet_cells (a : Nat) (vs : List α) (k : Nat) :
    storeGet d (storeCells d a vs) k = if a ≤ k then vs.getD (k - a) d else d := by
  induction vs generalizing a with
  | nil => simp [storeCells, storeGet]
  | cons v vs ih =>
    rcases Nat.lt_trichotomy k a with h | h | h
    · simp only [storeCells]
      split
      · rw [ih, if_neg (by omega), if_neg (by omega)]
      · simp only [storeGet]
        rw [if_neg (by omega), ih, if_neg (by omega), if_neg (by omega)]
    · subst h
      simp only [storeCells, Nat.le_refl, if_true, Nat.sub_self]
      split
      · rename_i h; rw [ih, if_neg (by omega)]; simp [h]
      · simp [storeGet]
    · have e : k - a = (k - (a + 1)) + 1 := by omega
      simp only [storeCells]
      split
      · rw [ih, if_pos (by omega), if_pos (by omega), e]; simp
      · simp only [storeGet]
        rw [if_neg (by omega), ih, if_pos (by omega), if_pos (by omega), e]; simp

theorem listed_cells (a : Nat) (vs : List α) (k : Nat) (h : listed (storeCells d a vs) k = true) :
    a ≤ k ∧ k < a + vs.length := by
  induction vs generalizing a with
  | nil => simp [storeCells, listed] at h
  | cons v vs ih =>
    simp only [storeCells] at h
    split at h
    · have := ih _ h; simp only [List.length_cons]; omega
    · simp only [listed, List.any_cons, Bool.or_eq_true, decide_eq_true_eq] at h
      rcases h with h | h
      · simp only [List.length_cons]; omega
      · have := ih _ h; simp only [List.length_cons]; omega

/-- What a store write does, once: the written keys read the written values, every other key as before. -/
theorem storeGet_write (m : List (Nat × α)) (a : Nat) (vs : List α) (k : Nat) :
    storeGet d (storeWrite d m a vs) k =
      if a ≤ k ∧ k < a + vs.length then vs.getD (k - a) d else storeGet d m k := by
  unfold storeWrite
  rw [List.append_assoc, storeGet_append, storeGet_append, listed_filter m (fun x => decide (x < a)),
    storeGet_filter m (fun x => decide (x < a)),
    storeGet_filter m (fun x => decide (a + vs.length ≤ x)), storeGet_cells]
  cases hc : listed (storeCells d a vs) k
  · have e := storeGet_cells (d := d) a vs k
    rw [storeGet_unlisted _ _ hc] at e
    cases hl : listed m k
    · rw [storeGet_unlisted m k hl]
      simp only [Bool.and_false, Bool.false_eq_true, if_false, ite_self]
      split_ifs at e ⊢ <;> first | rfl | exact e | omega
    · simp only [Bool.and_true, decide_eq_true_eq, Bool.false_eq_true, if_false]
      split_ifs at e ⊢ <;> first | rfl | exact e | omega
  · have := listed_cells a vs k hc
    simp only [Bool.and_eq_true, decide_eq_true_eq, if_true]
    split_ifs <;> first | rfl | omega

/-! The canonical form. -/

theorem storeWf_iff (m : List (Nat × α)) :
    storeWf d m = true ↔ m.Pairwise (fun x y => x.1 < y.1) ∧ ∀ c ∈ m, c.2 ≠ d := by
  induction m with
  | nil => simp [storeWf]
  | cons c rest ih =>
    obtain ⟨a, v⟩ := c
    simp only [storeWf, Bool.and_eq_true, ih, List.pairwise_cons, List.mem_cons, forall_eq_or_imp,
      List.all_eq_true, decide_eq_true_eq]
    constructor
    · rintro ⟨⟨h₁, h₂⟩, h₃, h₄⟩; exact ⟨⟨h₂, h₃⟩, h₁, h₄⟩
    · rintro ⟨⟨h₂, h₃⟩, h₁, h₄⟩; exact ⟨⟨h₁, h₂⟩, h₃, h₄⟩

theorem storeCells_spec (a : Nat) (vs : List α) :
    (storeCells d a vs).Pairwise (fun x y => x.1 < y.1) ∧
      ∀ c ∈ storeCells d a vs, c.2 ≠ d ∧ a ≤ c.1 ∧ c.1 < a + vs.length := by
  induction vs generalizing a with
  | nil => simp [storeCells]
  | cons v vs ih =>
    obtain ⟨h₁, h₂⟩ := ih (a + 1)
    simp only [storeCells]
    split
    · refine ⟨h₁, fun c hc => ?_⟩
      have := h₂ c hc
      simp only [List.length_cons]
      exact ⟨this.1, by omega, by omega⟩
    · rename_i hv
      refine ⟨List.pairwise_cons.mpr ⟨fun c hc => ?_, h₁⟩, fun c hc => ?_⟩
      · have := h₂ c hc; simp only; omega
      · rcases List.mem_cons.mp hc with rfl | hc
        · exact ⟨hv, by simp, by simp⟩
        · have := h₂ c hc
          simp only [List.length_cons]
          exact ⟨this.1, by omega, by omega⟩

theorem storeWf_filter (m : List (Nat × α)) (p : Nat × α → Bool) (h : storeWf d m = true) :
    storeWf d (m.filter p) = true := by
  rw [storeWf_iff] at h ⊢
  exact ⟨h.1.filter _, fun c hc => h.2 c (List.mem_filter.mp hc).1⟩

/-- An erasure keeps the canonical form. -/
theorem storeWf_erase (m : List (Nat × α)) (a n : Nat) (h : storeWf d m = true) :
    storeWf d (storeErase m a n) = true := by
  have hf := storeWf_filter m (fun c => decide (c.1 < a)) h
  have hg := storeWf_filter m (fun c => decide (a + n ≤ c.1)) h
  rw [storeWf_iff] at hf hg ⊢
  refine ⟨List.pairwise_append.mpr ⟨hf.1, hg.1, fun x hx y hy => ?_⟩, fun c hc => ?_⟩
  · have hx' := (List.mem_filter.mp hx).2
    have hy' := (List.mem_filter.mp hy).2
    simp only [decide_eq_true_eq] at hx' hy'
    omega
  · rcases List.mem_append.mp hc with hc | hc
    · exact hf.2 c hc
    · exact hg.2 c hc

/-- A write keeps the canonical form. -/
theorem storeWf_write (m : List (Nat × α)) (a : Nat) (vs : List α) (h : storeWf d m = true) :
    storeWf d (storeWrite d m a vs) = true := by
  have hf := storeWf_filter m (fun c => decide (c.1 < a)) h
  have hg := storeWf_filter m (fun c => decide (a + vs.length ≤ c.1)) h
  obtain ⟨hc₁, hc₂⟩ := storeCells_spec (d := d) a vs
  rw [storeWf_iff] at hf hg ⊢
  unfold storeWrite
  refine ⟨List.pairwise_append.mpr ⟨List.pairwise_append.mpr ⟨hf.1, hc₁, fun x hx y hy => ?_⟩, hg.1,
    fun x hx y hy => ?_⟩, fun c hc => ?_⟩
  · have hx' := (List.mem_filter.mp hx).2
    have hy' := hc₂ y hy
    simp only [decide_eq_true_eq] at hx'
    omega
  · have hy' := (List.mem_filter.mp hy).2
    simp only [decide_eq_true_eq] at hy'
    rcases List.mem_append.mp hx with hx | hx
    · have hx' := (List.mem_filter.mp hx).2
      simp only [decide_eq_true_eq] at hx'
      omega
    · have hx' := hc₂ x hx
      omega
  · rcases List.mem_append.mp hc with hc | hc
    · rcases List.mem_append.mp hc with hc | hc
      · exact hf.2 c hc
      · exact (hc₂ c hc).1
    · exact hg.2 c hc

end

end Sys2Proof.Machine
end

