-- ==== Sys2Proof/Laws/Memory.lean ====
section
/-! SUPPORT. What the data RAM operations do to a byte, to a word and to an element of COEF and PCM, and that
each keeps the canonical form (R40-R43, R64). -/

namespace Sys2Proof.Machine

/-! Bytes. -/

theorem readByte_writeBytes (m : Memory) (a : Nat) (bs : List Byte) (x : Nat) :
    readByte (writeBytes m a bs) x =
      if a ≤ x ∧ x < a + bs.length then bs.getD (x - a) 0 else readByte m x :=
  storeGet_write m a bs x

theorem readByte_eraseBytes (m : Memory) (a n x : Nat) :
    readByte (eraseBytes m a n) x = if a ≤ x ∧ x < a + n then 0 else readByte m x :=
  storeGet_erase m a n x

/-! Words. -/

@[simp] theorem bytesWord_wordBytes (w : Word) :
    bytesWord (w.extractLsb' 0 8) (w.extractLsb' 8 8) (w.extractLsb' 16 8) (w.extractLsb' 24 8) = w := by
  unfold bytesWord
  ext i hi
  simp only [BitVec.getElem_append, BitVec.getElem_extractLsb']
  split
  · simp [BitVec.getLsbD_eq_getElem hi]
  · split
    · rw [← BitVec.getLsbD_eq_getElem hi]; congr 1; omega
    · split
      · rw [← BitVec.getLsbD_eq_getElem hi]; congr 1; omega
      · rw [← BitVec.getLsbD_eq_getElem hi]; congr 1; omega

@[simp] theorem wordBytes_length (w : Word) : (wordBytes w).length = 4 := rfl

@[simp] theorem flatMap_wordBytes_length (ws : List Word) : (ws.flatMap wordBytes).length = 4 * ws.length := by
  induction ws with
  | nil => rfl
  | cons w ws ih => simp only [List.flatMap_cons, List.length_append, ih, wordBytes_length, List.length_cons]; omega

@[simp] theorem wordBytes_zero (k : Nat) : (wordBytes 0).getD k 0 = 0 := by
  rcases k with _ | _ | _ | _ | k <;> rfl

theorem flatMap_wordBytes_getD (ws : List Word) (i k : Nat) (hk : k < 4) :
    (ws.flatMap wordBytes).getD (4 * i + k) 0 = (wordBytes (ws.getD i 0)).getD k 0 := by
  induction ws generalizing i with
  | nil =>
    simp only [List.flatMap_nil, List.getD_nil]
    exact (wordBytes_zero k).symm
  | cons w ws ih =>
    cases i with
    | zero =>
      simp only [List.flatMap_cons, Nat.mul_zero, Nat.zero_add, List.getD_cons_zero]
      rw [List.getD_append _ _ _ _ (by simpa using hk)]
    | succ i =>
      simp only [List.flatMap_cons, List.getD_cons_succ]
      rw [List.getD_append_right _ _ _ _ (by simp only [wordBytes_length]; omega), ← ih i]
      congr 1
      simp only [wordBytes_length]; omega

/-- A byte after a write of words: the written word's byte, or as before. -/
theorem readByte_writeWords (m : Memory) (a : Nat) (ws : List Word) (x : Nat) :
    readByte (writeWords m a ws) x =
      if a ≤ x ∧ x < a + 4 * ws.length then (wordBytes (ws.getD ((x - a) / 4) 0)).getD ((x - a) % 4) 0
      else readByte m x := by
  unfold writeWords
  rw [readByte_writeBytes, flatMap_wordBytes_length]
  split
  · rw [← flatMap_wordBytes_getD _ _ _ (Nat.mod_lt _ (by omega)), Nat.div_add_mod]
  · rfl

/-- A word after a write of words, at a multiple of 4 from the write's start. -/
theorem readWord_writeWords (m : Memory) (a : Nat) (ws : List Word) (x : Nat)
    (h : x + 4 ≤ a ∨ (a ≤ x ∧ (x - a) % 4 = 0)) :
    readWord (writeWords m a ws) x =
      if a ≤ x ∧ x < a + 4 * ws.length then ws.getD ((x - a) / 4) 0 else readWord m x := by
  unfold readWord
  simp only [readByte_writeWords]
  rcases h with h | ⟨h₁, h₂⟩
  · rw [if_neg (by omega), if_neg (by omega), if_neg (by omega), if_neg (by omega), if_neg (by omega)]
  · by_cases hx : x < a + 4 * ws.length
    · have e₀ : (x - a) % 4 = 0 := h₂
      have d₁ : (x + 1 - a) / 4 = (x - a) / 4 := by omega
      have d₂ : (x + 2 - a) / 4 = (x - a) / 4 := by omega
      have d₃ : (x + 3 - a) / 4 = (x - a) / 4 := by omega
      have m₁ : (x + 1 - a) % 4 = 1 := by omega
      have m₂ : (x + 2 - a) % 4 = 2 := by omega
      have m₃ : (x + 3 - a) % 4 = 3 := by omega
      rw [if_pos ⟨h₁, hx⟩, if_pos (by omega), if_pos (by omega), if_pos (by omega), if_pos (by omega),
        d₁, d₂, d₃, m₁, m₂, m₃, e₀]
      exact bytesWord_wordBytes _
    · rw [if_neg (by omega), if_neg (by omega), if_neg (by omega), if_neg (by omega), if_neg (by omega)]

/-- A word after an erasure, at a multiple of 4 from its start. -/
theorem readWord_eraseBytes (m : Memory) (a n x : Nat)
    (h : x + 4 ≤ a ∨ (a ≤ x ∧ (x - a) % 4 = 0)) :
    readWord (eraseBytes m a (4 * n)) x =
      if a ≤ x ∧ x < a + 4 * n then 0 else readWord m x := by
  unfold readWord
  simp only [readByte_eraseBytes]
  rcases h with h | ⟨h₁, h₂⟩
  · rw [if_neg (by omega), if_neg (by omega), if_neg (by omega), if_neg (by omega), if_neg (by omega)]
  · by_cases hx : x < a + 4 * n
    · rw [if_pos ⟨h₁, hx⟩, if_pos (by omega), if_pos (by omega), if_pos (by omega), if_pos (by omega)]
      rfl
    · rw [if_neg (by omega), if_neg (by omega), if_neg (by omega), if_neg (by omega), if_neg (by omega)]

/-- Two memories with the same bytes have the same words. -/
theorem readWord_congr {m m' : Memory} {a : Nat} (h : ∀ k, k < 4 → readByte m (a + k) = readByte m' (a + k)) :
    readWord m a = readWord m' a := by
  unfold readWord
  rw [show readByte m a = readByte m' a from h 0 (by omega), h 1 (by omega), h 2 (by omega), h 3 (by omega)]

/-! Elements of COEF (R41). A list starts and ends inside its channel. -/

theorem coef_writeWords (m : Memory) (c lo : Nat) (ws : List Word) (c' i : Nat)
    (hw : lo + ws.length ≤ 4096) (hi : i < 4096) :
    coef (writeWords m (coefAddr c lo) ws) c' i =
      if c' = c ∧ lo ≤ i ∧ i < lo + ws.length then ws.getD (i - lo) 0 else coef m c' i := by
  unfold coef coefAddr
  rw [readWord_writeWords _ _ _ _ (by omega)]
  by_cases h : c' = c ∧ lo ≤ i ∧ i < lo + ws.length
  · obtain ⟨rfl, h₁, h₂⟩ := h
    rw [if_pos (by omega), if_pos (by omega)]
    congr 1; omega
  · rw [if_neg h, if_neg]
    intro h'
    apply h
    have : c' = c := by omega
    subst this
    omega

theorem coef_eraseBytes (m : Memory) (c lo n : Nat) (c' i : Nat)
    (hw : lo + n ≤ 4096) (hi : i < 4096) :
    coef (eraseBytes m (coefAddr c lo) (4 * n)) c' i =
      if c' = c ∧ lo ≤ i ∧ i < lo + n then 0 else coef m c' i := by
  unfold coef coefAddr
  rw [readWord_eraseBytes _ _ _ _ (by omega)]
  by_cases h : c' = c ∧ lo ≤ i ∧ i < lo + n
  · obtain ⟨rfl, h₁, h₂⟩ := h
    rw [if_pos (by omega), if_pos (by omega)]
  · rw [if_neg h, if_neg]
    intro h'
    apply h
    have : c' = c := by omega
    subst this
    omega

theorem coef_mapCoef (m : Memory) (c lo hi : Nat) (f : F32 → F32) (c' i : Nat)
    (hw : hi ≤ 4096) (hi' : i < 4096) :
    coef (mapCoef m c lo hi f) c' i =
      if c' = c ∧ lo ≤ i ∧ i < hi then f (coef m c i) else coef m c' i := by
  unfold mapCoef
  by_cases hl : lo ≤ hi
  · rw [coef_writeWords _ _ _ _ _ _ (by simp; omega) hi']
    simp only [List.length_map, List.length_range']
    by_cases h : c' = c ∧ lo ≤ i ∧ i < hi
    · rw [if_pos (by omega), if_pos h, List.getD_eq_getElem?_getD, List.getElem?_map,
        List.getElem?_range' (by omega)]
      obtain ⟨rfl, h₁, h₂⟩ := h
      simp only [Option.map_some, Option.getD_some]
      congr 2; omega
    · rw [if_neg (by omega), if_neg h]
  · have e : hi - lo = 0 := by omega
    rw [if_neg (by omega), e]
    unfold coef
    rw [List.range'_zero, List.map_nil]
    unfold readWord
    simp only [readByte_writeWords, List.length_nil]
    rw [if_neg (by omega), if_neg (by omega), if_neg (by omega), if_neg (by omega)]

/-! Elements of PCM (R42). -/

theorem pcm_writeWords (m : Memory) (c lo : Nat) (ws : List Word) (c' i : Nat)
    (hw : lo + ws.length ≤ 6144) (hi : i < 6144) :
    pcm (writeWords m (pcmAddr c lo) ws) c' i =
      if c' = c ∧ lo ≤ i ∧ i < lo + ws.length then ws.getD (i - lo) 0 else pcm m c' i := by
  unfold pcm pcmAddr
  rw [readWord_writeWords _ _ _ _ (by omega)]
  by_cases h : c' = c ∧ lo ≤ i ∧ i < lo + ws.length
  · obtain ⟨rfl, h₁, h₂⟩ := h
    rw [if_pos (by omega), if_pos (by omega)]
    congr 1; omega
  · rw [if_neg h, if_neg]
    intro h'
    apply h
    have : c' = c := by omega
    subst this
    omega

theorem pcm_eraseBytes (m : Memory) (c lo n : Nat) (c' i : Nat)
    (hw : lo + n ≤ 6144) (hi : i < 6144) :
    pcm (eraseBytes m (pcmAddr c lo) (4 * n)) c' i =
      if c' = c ∧ lo ≤ i ∧ i < lo + n then 0 else pcm m c' i := by
  unfold pcm pcmAddr
  rw [readWord_eraseBytes _ _ _ _ (by omega)]
  by_cases h : c' = c ∧ lo ≤ i ∧ i < lo + n
  · obtain ⟨rfl, h₁, h₂⟩ := h
    rw [if_pos (by omega), if_pos (by omega)]
  · rw [if_neg h, if_neg]
    intro h'
    apply h
    have : c' = c := by omega
    subst this
    omega

/-! The canonical form. -/

theorem wf_writeBytes (m : Memory) (a : Nat) (bs : List Byte) (h : Memory.wf m = true) :
    Memory.wf (writeBytes m a bs) = true :=
  storeWf_write m a bs h

theorem wf_writeWords (m : Memory) (a : Nat) (ws : List Word) (h : Memory.wf m = true) :
    Memory.wf (writeWords m a ws) = true :=
  wf_writeBytes m a _ h

theorem wf_eraseBytes (m : Memory) (a n : Nat) (h : Memory.wf m = true) :
    Memory.wf (eraseBytes m a n) = true :=
  storeWf_erase m a n h

theorem wf_mapCoef (m : Memory) (c lo hi : Nat) (f : F32 → F32) (h : Memory.wf m = true) :
    Memory.wf (mapCoef m c lo hi f) = true :=
  wf_writeWords m _ _ h

/-- The memory after reset has the canonical form. -/
theorem reset_mem_wf : Memory.wf State.reset.mem = true := rfl

/-- A fold of operations that keep the canonical form keeps it. -/
theorem wf_foldl {β : Type} (f : Memory → β → Memory)
    (hf : ∀ m b, Memory.wf m = true → Memory.wf (f m b) = true) (bs : List β) (m : Memory)
    (h : Memory.wf m = true) : Memory.wf (bs.foldl f m) = true := by
  induction bs generalizing m with
  | nil => exact h
  | cons b bs ih => exact ih _ (hf m b h)

end Sys2Proof.Machine
end

