-- ==== Sys2Proof/Laws/Ops.lean ====
section
/-! SUPPORT. What the shared operations on registers, matrices and the bit window answer, each said once. -/

namespace Sys2Proof.Machine

/-- Past the 33 boundaries of R33 nothing is read. -/
theorem State.bound_of_ge (s : State) {b : Nat} (h : 33 ≤ b) : s.bound b = 0 := by
  simp [State.bound, Vector.getD, show ¬b < 33 by omega]

/-- A property of all boundaries needs only the 33 of R33. -/
theorem State.bound_le_of (s : State) {n : Nat} (h : ∀ b, b < 33 → s.bound b ≤ n) (b : Nat) : s.bound b ≤ n := by
  by_cases hb : b < 33
  · exact h b hb
  · rw [s.bound_of_ge (by omega)]; omega

theorem nibble_lt (x : Word) (k : Nat) : nibble x k < 16 := Nat.mod_lt _ (by decide)

/-- A word has eight nibbles. -/
theorem nibble_of_ge (x : Word) {k : Nat} (h : 8 ≤ k) : nibble x k = 0 := by
  have h₁ : x.toNat < 16 ^ 8 := x.isLt
  have h₂ : (16 : Nat) ^ 8 ≤ 16 ^ k := Nat.pow_le_pow_right (by decide) h
  simp [nibble, Nat.div_eq_of_lt (lt_of_lt_of_le h₁ h₂)]

theorem Group.member_of_ge (r : Group) {k : Nat} (h : 8 ≤ k) : r.member k = 0 := nibble_of_ge r.ch h

theorem Group.count_lt (r : Group) : r.count < 16 := r.size.isLt

/-- A matrix has eight rows and columns. -/
theorem matGet_of_ge (m : Matrix) {i j : Nat} (h : 8 ≤ i ∨ 8 ≤ j) : matGet m i j = 0 := by
  unfold matGet
  rcases h with h | h
  · have hi : ¬i < 8 := by omega
    by_cases hj : j < 8
    · simp [Vector.getD, hi, hj]
    · simp [Vector.getD, hj]
  · have hj : ¬j < 8 := by omega
    simp [Vector.getD, hj]

theorem matGet_eq (m : Matrix) {i j : Nat} (hi : i < 8) (hj : j < 8) : matGet m i j = m[i][j] := by
  simp [matGet, Vector.getD, hi, hj]

/-- The entry written, and every other entry as before. -/
theorem matGet_matSet (m : Matrix) {i j : Nat} (x : F32) (hi : i < 8) (hj : j < 8) (i' j' : Nat) :
    matGet (matSet m i j x) i' j' = if i' = i ∧ j' = j then x else matGet m i' j' := by
  by_cases hij : i' < 8 ∧ j' < 8
  · obtain ⟨hi', hj'⟩ := hij
    unfold matGet matSet
    by_cases h₁ : i' = i
    · subst h₁
      by_cases h₂ : j' = j
      · subst h₂; simp [Vector.getD, hi', hj']
      · simp [Vector.getD, hi', hj', h₂, Ne.symm h₂]
    · simp [Vector.getD, hi', hj', h₁, Ne.symm h₁]
  · rw [matGet_of_ge _ (by omega), matGet_of_ge _ (by omega), if_neg (by omega)]

theorem matGet_diagonal (n : Nat) (d : Nat → F32) {i j : Nat} (hi : i < 8) (hj : j < 8) :
    matGet (diagonal n d) i j = if i = j ∧ i < n then d i else 0 := by
  rw [matGet_eq _ hi hj]
  simp [diagonal]

theorem matGet_identity (n : Nat) {i j : Nat} (hi : i < 8) (hj : j < 8) :
    matGet (identity n) i j = if i = j ∧ i < n then 0x3F800000#32 else 0 := matGet_diagonal n _ hi hj

theorem isPow2_iff (x : Nat) : isPow2 x = true ↔ ∃ k, x = 2 ^ k := by
  simp only [isPow2, beq_iff_eq]
  constructor
  · intro h; exact ⟨_, h.symm⟩
  · rintro ⟨k, rfl⟩; rw [Nat.log2_two_pow]

theorem isInt16_iff (x : Word) : isInt16 x = true ↔ -32768 ≤ x.toInt ∧ x.toInt ≤ 32767 := by
  simp [isInt16]

/-- `sfb_ok()` of R135, spelled out. -/
theorem State.sfbOk_iff (s : State) : s.sfbOk = true ↔
    s.bound 0 = 0 ∧ (∀ b, b < s.subNb.toNat → s.bound b ≤ s.bound (b + 1)) ∧
      s.bound s.subNb.toNat ≤ s.subN.toNat := by
  simp [State.sfbOk, and_assoc]

theorem isRemap_iff (x : Word) : isRemap x = true ↔ ∀ k, k < 6 → ∃ j, j < 6 ∧ nibble x j = k := by
  simp [isRemap]

theorem State.windowBits_lt (s : State) (p n : Nat) : s.windowBits p n < 2 ^ n := by
  induction n with
  | zero => exact Nat.one_pos
  | succ n ih =>
    have hb : (s.windowBit (p + n)).toNat ≤ 1 := Bool.toNat_le _
    simp only [State.windowBits, Nat.pow_succ]
    omega

/-- The bits of the window value of R100: the bit read k-th has the weight 2^(n−1−k). -/
theorem State.windowBits_testBit (s : State) (p n k : Nat) (hk : k < n) :
    (s.windowBits p n).testBit (n - 1 - k) = s.windowBit (p + k) := by
  induction n with
  | zero => omega
  | succ n ih =>
    simp only [State.windowBits]
    by_cases h : k = n
    · subst h
      rw [show k + 1 - 1 - k = 0 by omega]
      cases s.windowBit (p + k) <;> simp [Nat.testBit_zero, Nat.add_mod]
    · rw [show n + 1 - 1 - k = (n - 1 - k) + 1 by omega, Nat.testBit_succ, ← ih (by omega)]
      congr 1
      cases s.windowBit (p + n) <;> simp [Nat.mul_add_div]

/-- Reading a then b bits is reading a+b bits (R110, L1). -/
theorem State.windowBits_add (s : State) (p a b : Nat) :
    s.windowBits p (a + b) = s.windowBits p a * 2 ^ b + s.windowBits (p + a) b := by
  induction b with
  | zero => simp [State.windowBits]
  | succ b ih =>
    rw [← Nat.add_assoc]
    simp only [State.windowBits]
    rw [ih, Nat.add_assoc p a b, Nat.pow_succ]
    ring

end Sys2Proof.Machine
end

