-- ==== Sys2Proof/Laws/PerInstr.lean ====
section
/-! SUPPORT. Per command: the word of a well-formed command is a word of its row of the opcode table,
"(word & mask) == match" (R84), with mask and match as opcode_table.json gives them. -/

namespace Sys2Proof.Laws

namespace TableWord

/-- The mask and the match of a command's row (opcode_table.json). -/
def row : Instr → Word × Word
  | .nop => (0xFFFFFFFF#32, 0x00000000#32)
  | .brInit => (0xFFFFFFFF#32, 0x01000000#32)
  | .brRead _ => (0xFFFFFFC0#32, 0x02000000#32)
  | .brPeek _ => (0xFFFFFFC0#32, 0x03000000#32)
  | .brSkip _ => (0xFFF00000#32, 0x04000000#32)
  | .brTell => (0xFFFFFFFF#32, 0x05000000#32)
  | .brVlc _ => (0xFFFFFFF0#32, 0x06000000#32)
  | .vlcBegin _ _ => (0xFFFFC0F0#32, 0x08000000#32)
  | .vlcAdd _ => (0xFFFFFFF0#32, 0x09000000#32)
  | .vlcEnd _ => (0xFFFFFFF0#32, 0x0A000000#32)
  | .grpSet _ => (0xFFFFFFF8#32, 0x10000000#32)
  | .mxIdent _ => (0xFFFFFFF8#32, 0x11000000#32)
  | .mxMs45 _ => (0xFFFFFFF8#32, 0x12000000#32)
  | .mxWrite _ _ _ => (0xFFFFF888#32, 0x13000000#32)
  | .mxAng _ _ _ => (0xFFC0FE08#32, 0x14000000#32)
  | .mxSigns _ _ => (0xFFFF00F8#32, 0x15000000#32)
  | .mxRot _ => (0xFFFFFFF8#32, 0x16000000#32)
  | .mxApply _ => (0xFFFFFFF8#32, 0x17000000#32)
  | .subSet _ => (0xFFFFFFC0#32, 0x20000000#32)
  | .sfbSet _ => (0xFFFFFFC0#32, 0x21000000#32)
  | .qsSet => (0xFFFFFFFF#32, 0x22000000#32)
  | .chQset _ => (0xFFFFFFF8#32, 0x23000000#32)
  | .sfSet _ _ => (0xFFFFE0F8#32, 0x24000000#32)
  | .coefClr _ => (0xFFFFFFF8#32, 0x25000000#32)
  | .dequant _ => (0xFFFFFFF8#32, 0x26000000#32)
  | .imdct _ => (0xFFFFFFF8#32, 0x27000000#32)
  | .window _ => (0xFFFFFFF8#32, 0x28000000#32)
  | .pcmZero _ => (0xFFFFFFF8#32, 0x29000000#32)
  | .prevSet _ => (0xFFFFFFF8#32, 0x2A000000#32)
  | .outEmit => (0xFFFFFFFF#32, 0x30000000#32)
  | .remapSet => (0xFFFFFFFF#32, 0x3C000000#32)
  | .errClr => (0xFFFFFFFF#32, 0x3D000000#32)
  | .cfg => (0xFFFFFFFF#32, 0x3F000000#32)

/-- The word of the command is a word of its row. -/
def Statement (i : Instr) : Prop := WellFormed i = true → encode i &&& (row i).1 = (row i).2

theorem or_and (a b m : Word) : (a ||| b) &&& m = (a &&& m) ||| (b &&& m) := by
  ext i hi; simp [Bool.and_or_distrib_right]

theorem field_n200 (f : BitVec 20) : f.setWidth 32 &&& 0xFFF00000#32 = 0#32 := by
  ext i hi
  by_cases h : i < 20
  · interval_cases i <;> simp
  · simp [BitVec.getLsbD_of_ge f i (by omega)]

theorem field_n60 : ∀ f : BitVec 6, f.setWidth 32 &&& 0xFFFFFFC0#32 = 0#32 := by decide

theorem field_t0 : ∀ f : BitVec 4, f.setWidth 32 &&& 0xFFFFFFF0#32 = 0#32 := by decide

theorem field_tl0 : ∀ f : BitVec 4, f.setWidth 32 &&& 0xFFFFC0F0#32 = 0#32 := by decide

theorem field_tl1 : ∀ f : BitVec 6, f.setWidth 32 <<< 8 &&& 0xFFFFC0F0#32 = 0#32 := by decide

theorem field_g0 : ∀ f : BitVec 3, f.setWidth 32 &&& 0xFFFFFFF8#32 = 0#32 := by decide

theorem field_gij0 : ∀ f : BitVec 3, f.setWidth 32 &&& 0xFFFFF888#32 = 0#32 := by decide

theorem field_gij1 : ∀ f : BitVec 3, f.setWidth 32 <<< 4 &&& 0xFFFFF888#32 = 0#32 := by decide

theorem field_gij2 : ∀ f : BitVec 3, f.setWidth 32 <<< 8 &&& 0xFFFFF888#32 = 0#32 := by decide

theorem field_gka0 : ∀ f : BitVec 3, f.setWidth 32 &&& 0xFFC0FE08#32 = 0#32 := by decide

theorem field_gka1 : ∀ f : BitVec 5, f.setWidth 32 <<< 4 &&& 0xFFC0FE08#32 = 0#32 := by decide

theorem field_gka2 : ∀ f : BitVec 6, f.setWidth 32 <<< 16 &&& 0xFFC0FE08#32 = 0#32 := by decide

theorem field_gs0 : ∀ f : BitVec 3, f.setWidth 32 &&& 0xFFFF00F8#32 = 0#32 := by decide

theorem field_gs1 : ∀ f : BitVec 8, f.setWidth 32 <<< 8 &&& 0xFFFF00F8#32 = 0#32 := by decide

theorem field_b0 : ∀ f : BitVec 6, f.setWidth 32 &&& 0xFFFFFFC0#32 = 0#32 := by decide

theorem field_c0 : ∀ f : BitVec 3, f.setWidth 32 &&& 0xFFFFFFF8#32 = 0#32 := by decide

theorem field_cb0 : ∀ f : BitVec 3, f.setWidth 32 &&& 0xFFFFE0F8#32 = 0#32 := by decide

theorem field_cb1 : ∀ f : BitVec 5, f.setWidth 32 <<< 8 &&& 0xFFFFE0F8#32 = 0#32 := by decide

theorem nop : Statement (.nop) := by
  intro _
  decide

theorem brInit : Statement (.brInit) := by
  intro _
  decide

theorem brRead (n : Nat) : Statement (.brRead n) := by
  intro _
  show (0x02#32 <<< 24 ||| ((BitVec.ofNat 6 n).setWidth 32)) &&& 0xFFFFFFC0#32 = 0x02000000#32
  rw [or_and, field_n60]
  rfl

theorem brPeek (n : Nat) : Statement (.brPeek n) := by
  intro _
  show (0x03#32 <<< 24 ||| ((BitVec.ofNat 6 n).setWidth 32)) &&& 0xFFFFFFC0#32 = 0x03000000#32
  rw [or_and, field_n60]
  rfl

theorem brSkip (n : Nat) : Statement (.brSkip n) := by
  intro _
  show (0x04#32 <<< 24 ||| ((BitVec.ofNat 20 n).setWidth 32)) &&& 0xFFF00000#32 = 0x04000000#32
  rw [or_and, field_n200]
  rfl

theorem brTell : Statement (.brTell) := by
  intro _
  decide

theorem brVlc (t : BitVec 4) : Statement (.brVlc t) := by
  intro _
  show (0x06#32 <<< 24 ||| (t.setWidth 32)) &&& 0xFFFFFFF0#32 = 0x06000000#32
  rw [or_and, field_t0]
  rfl

theorem vlcBegin (t : BitVec 4) (maxlen : Nat) : Statement (.vlcBegin t maxlen) := by
  intro _
  show (0x08#32 <<< 24 ||| (t.setWidth 32 ||| (BitVec.ofNat 6 maxlen).setWidth 32 <<< 8)) &&& 0xFFFFC0F0#32 = 0x08000000#32
  rw [or_and, or_and, field_tl0, field_tl1]
  rfl

theorem vlcAdd (t : BitVec 4) : Statement (.vlcAdd t) := by
  intro _
  show (0x09#32 <<< 24 ||| (t.setWidth 32)) &&& 0xFFFFFFF0#32 = 0x09000000#32
  rw [or_and, field_t0]
  rfl

theorem vlcEnd (t : BitVec 4) : Statement (.vlcEnd t) := by
  intro _
  show (0x0A#32 <<< 24 ||| (t.setWidth 32)) &&& 0xFFFFFFF0#32 = 0x0A000000#32
  rw [or_and, field_t0]
  rfl

theorem grpSet (g : BitVec 3) : Statement (.grpSet g) := by
  intro _
  show (0x10#32 <<< 24 ||| (g.setWidth 32)) &&& 0xFFFFFFF8#32 = 0x10000000#32
  rw [or_and, field_g0]
  rfl

theorem mxIdent (g : BitVec 3) : Statement (.mxIdent g) := by
  intro _
  show (0x11#32 <<< 24 ||| (g.setWidth 32)) &&& 0xFFFFFFF8#32 = 0x11000000#32
  rw [or_and, field_g0]
  rfl

theorem mxMs45 (g : BitVec 3) : Statement (.mxMs45 g) := by
  intro _
  show (0x12#32 <<< 24 ||| (g.setWidth 32)) &&& 0xFFFFFFF8#32 = 0x12000000#32
  rw [or_and, field_g0]
  rfl

theorem mxWrite (g : BitVec 3) (i : BitVec 3) (j : BitVec 3) : Statement (.mxWrite g i j) := by
  intro _
  show (0x13#32 <<< 24 ||| (g.setWidth 32 ||| i.setWidth 32 <<< 4 ||| j.setWidth 32 <<< 8)) &&& 0xFFFFF888#32 = 0x13000000#32
  rw [or_and, or_and, or_and, field_gij0, field_gij1, field_gij2]
  rfl

theorem mxAng (g : BitVec 3) (k : BitVec 5) (a : BitVec 6) : Statement (.mxAng g k a) := by
  intro _
  show (0x14#32 <<< 24 ||| (g.setWidth 32 ||| k.setWidth 32 <<< 4 ||| a.setWidth 32 <<< 16)) &&& 0xFFC0FE08#32 = 0x14000000#32
  rw [or_and, or_and, or_and, field_gka0, field_gka1, field_gka2]
  rfl

theorem mxSigns (g : BitVec 3) (sg : BitVec 8) : Statement (.mxSigns g sg) := by
  intro _
  show (0x15#32 <<< 24 ||| (g.setWidth 32 ||| sg.setWidth 32 <<< 8)) &&& 0xFFFF00F8#32 = 0x15000000#32
  rw [or_and, or_and, field_gs0, field_gs1]
  rfl

theorem mxRot (g : BitVec 3) : Statement (.mxRot g) := by
  intro _
  show (0x16#32 <<< 24 ||| (g.setWidth 32)) &&& 0xFFFFFFF8#32 = 0x16000000#32
  rw [or_and, field_g0]
  rfl

theorem mxApply (g : BitVec 3) : Statement (.mxApply g) := by
  intro _
  show (0x17#32 <<< 24 ||| (g.setWidth 32)) &&& 0xFFFFFFF8#32 = 0x17000000#32
  rw [or_and, field_g0]
  rfl

theorem subSet (nb : Nat) : Statement (.subSet nb) := by
  intro _
  show (0x20#32 <<< 24 ||| ((BitVec.ofNat 6 nb).setWidth 32)) &&& 0xFFFFFFC0#32 = 0x20000000#32
  rw [or_and, field_b0]
  rfl

theorem sfbSet (b : Nat) : Statement (.sfbSet b) := by
  intro _
  show (0x21#32 <<< 24 ||| ((BitVec.ofNat 6 b).setWidth 32)) &&& 0xFFFFFFC0#32 = 0x21000000#32
  rw [or_and, field_b0]
  rfl

theorem qsSet : Statement (.qsSet) := by
  intro _
  decide

theorem chQset (c : BitVec 3) : Statement (.chQset c) := by
  intro _
  show (0x23#32 <<< 24 ||| (c.setWidth 32)) &&& 0xFFFFFFF8#32 = 0x23000000#32
  rw [or_and, field_c0]
  rfl

theorem sfSet (c : BitVec 3) (b : BitVec 5) : Statement (.sfSet c b) := by
  intro _
  show (0x24#32 <<< 24 ||| (c.setWidth 32 ||| b.setWidth 32 <<< 8)) &&& 0xFFFFE0F8#32 = 0x24000000#32
  rw [or_and, or_and, field_cb0, field_cb1]
  rfl

theorem coefClr (c : BitVec 3) : Statement (.coefClr c) := by
  intro _
  show (0x25#32 <<< 24 ||| (c.setWidth 32)) &&& 0xFFFFFFF8#32 = 0x25000000#32
  rw [or_and, field_c0]
  rfl

theorem dequant (c : BitVec 3) : Statement (.dequant c) := by
  intro _
  show (0x26#32 <<< 24 ||| (c.setWidth 32)) &&& 0xFFFFFFF8#32 = 0x26000000#32
  rw [or_and, field_c0]
  rfl

theorem imdct (c : BitVec 3) : Statement (.imdct c) := by
  intro _
  show (0x27#32 <<< 24 ||| (c.setWidth 32)) &&& 0xFFFFFFF8#32 = 0x27000000#32
  rw [or_and, field_c0]
  rfl

theorem window (c : BitVec 3) : Statement (.window c) := by
  intro _
  show (0x28#32 <<< 24 ||| (c.setWidth 32)) &&& 0xFFFFFFF8#32 = 0x28000000#32
  rw [or_and, field_c0]
  rfl

theorem pcmZero (c : BitVec 3) : Statement (.pcmZero c) := by
  intro _
  show (0x29#32 <<< 24 ||| (c.setWidth 32)) &&& 0xFFFFFFF8#32 = 0x29000000#32
  rw [or_and, field_c0]
  rfl

theorem prevSet (c : BitVec 3) : Statement (.prevSet c) := by
  intro _
  show (0x2A#32 <<< 24 ||| (c.setWidth 32)) &&& 0xFFFFFFF8#32 = 0x2A000000#32
  rw [or_and, field_c0]
  rfl

theorem outEmit : Statement (.outEmit) := by
  intro _
  decide

theorem remapSet : Statement (.remapSet) := by
  intro _
  decide

theorem errClr : Statement (.errClr) := by
  intro _
  decide

theorem cfg : Statement (.cfg) := by
  intro _
  decide

end TableWord

end Sys2Proof.Laws
end

