-- ==== Sys2Proof/Laws/Step.lean ====
section
/-! SUPPORT. What a step can do (R14, R25, R250, R256), said once, and the induction an invariant needs. -/

namespace Sys2Proof.Machine

theorem broken_none_iff (s : State) : s.broken = none ↔
    s.busy = false ∧ s.err.toNat < 7 ∧ ∀ r ∈ s.vlc.toList, r.state ≠ 3 := by
  unfold State.broken
  split
  · simp_all
  · split
    · rename_i h
      constructor
      · intro h'; cases h'
      · intro h'; exact absurd h'.2.1 (by omega)
    · rename_i h₁ h₂
      simp only [List.any_eq_true, decide_eq_true_eq, ite_eq_right_iff, reduceCtorEq, imp_false,
        not_exists, not_and]
      simp only [Bool.not_eq_true] at h₁
      constructor
      · intro h; exact ⟨h₁, by omega, h⟩
      · exact fun h => h.2.2

theorem step_eq {s : State} (h : s.broken = none) : step s =
    match s.host with
    | [] => .next s
    | op :: rest => hostEvent op.event rest s := by
  cases hh : s.host <;> simp only [step, hostStep, h, hh]

/-- The one inversion of `step`: an unbroken state, and what the host's next event did. -/
theorem step_cases {s u : State} (h : step s = .next u) :
    s.broken = none ∧
      ((s.host = [] ∧ u = s) ∨ ∃ op rest, s.host = op :: rest ∧ hostEvent op.event rest s = .next u) := by
  have hb : s.broken = none := by
    unfold step hostStep at h
    split at h
    · exact absurd h (by simp)
    · assumption
  refine ⟨hb, ?_⟩
  rw [step_eq hb] at h
  split at h
  · exact .inl ⟨by assumption, (Host.Outcome.next.inj h).symm⟩
  · exact .inr ⟨_, _, by assumption, h⟩

theorem hostEvent_cases {e : HostEvent} {rest : List HostOp} {s u : State}
    (h : hostEvent e rest s = .next u) :
    u = s.resetWith rest ∨
      (∃ addr, u = { s with host := rest }.logRead addr (s.busRead (busOffset addr))) ∨
      (∃ off v, u = { s with host := rest }.busWrite off v) ∨
      (∃ w, issueCommand w rest s = .next u) := by
  unfold hostEvent at h
  split at h
  · exact .inl (Host.Outcome.next.inj h).symm
  · exact .inr (.inl ⟨_, (Host.Outcome.next.inj h).symm⟩)
  · split at h
    · exact .inr (.inr (.inr ⟨_, h⟩))
    · split at h
      · exact .inl (Host.Outcome.next.inj h).symm
      · exact .inr (.inr (.inl ⟨_, _, (Host.Outcome.next.inj h).symm⟩))

theorem issueCommand_cases {w : Word} {rest : List HostOp} {s u : State}
    (h : issueCommand w rest s = .next u) :
    ∃ iv t, State.overlap rest .command (s.issue w) = (iv, t) ∧
      ((iv = .clearing ∧ u = { t with busy := false }) ∨
        (iv = .command ∧ ((∃ i, decode w = .ok i ∧ exec i t = .next u) ∨
          ∃ e, decode w = .error e ∧ runIllegal t e = .next u))) := by
  unfold issueCommand at h
  split at h
  · rename_i t ht
    refine ⟨_, _, ht, .inr ⟨rfl, ?_⟩⟩
    unfold runWord at h
    split at h
    · exact .inl ⟨_, by assumption, h⟩
    · exact .inr ⟨_, by assumption, h⟩
  · rename_i t ht
    exact ⟨_, _, ht, .inl ⟨rfl, (Host.Outcome.next.inj h).symm⟩⟩

/-- The events inside a BUSY interval keep whatever each event and a change of the pending list keep. -/
theorem overlap_keeps {P : State → Prop} (hev : ∀ s iv e, P s → P (s.busyEvent iv e).2)
    (hhost : ∀ s l, P s → P { s with host := l }) (l : List HostOp) (iv : Interval) (s : State)
    (h : P s) : P (State.overlap l iv s).2 := by
  induction l generalizing iv s with
  | nil => exact hhost s [] h
  | cons op rest ih =>
    unfold State.overlap
    split
    · exact ih _ _ (hev s iv op.event h)
    · exact hhost s _ h

/-- BUSY stays 1 inside an interval. -/
theorem overlap_busy (l : List HostOp) (iv : Interval) (s : State) (h : s.busy = true) :
    (State.overlap l iv s).2.busy = true := by
  refine overlap_keeps (P := fun s => s.busy = true) (fun s iv e h => ?_) (fun s l h => h) l iv s h
  cases e <;> simp only [State.busyEvent] <;> repeat' split
  all_goals first | rfl | (cases iv <;> exact h)

/-- An event inside a BUSY interval does one of these things to the state (R256). -/
theorem busyEvent_cases (s : State) (iv : Interval) (e : HostEvent) :
    (s.busyEvent iv e).2 = s.startReset ∨ (∃ v, (s.busyEvent iv e).2 = s.writeEnables v) ∨
      (∃ v, (s.busyEvent iv e).2 = s.writeStatus v) ∨ (∃ a v, (s.busyEvent iv e).2 = s.logRead a v) ∨
      (s.busyEvent iv e).2 = s.drop iv ∨ (∃ a v, (s.busyEvent iv e).2 = (s.drop iv).logRead a v) := by
  cases e with
  | powerOnReset => exact .inl rfl
  | write addr v =>
    simp only [State.busyEvent]
    split
    · split
      · exact .inl rfl
      · exact .inr (.inl ⟨_, rfl⟩)
    · split
      · exact .inr (.inr (.inl ⟨_, rfl⟩))
      · exact .inr (.inr (.inr (.inr (.inl rfl))))
  | read addr =>
    simp only [State.busyEvent]
    split
    · exact .inr (.inr (.inr (.inl ⟨_, _, rfl⟩)))
    · split
      · exact .inr (.inr (.inr (.inl ⟨_, _, rfl⟩)))
      · exact .inr (.inr (.inr (.inr (.inr ⟨_, _, rfl⟩))))

/-- The induction package of an invariant over the architectural fields: `P` ignores the interface fields
(`hold`), holds after a reset, and is kept by a data write of the host, by error entry and by each command. Then
every step keeps it. -/
theorem step_keeps {P : State → Prop}
    (hold : ∀ s u : State, P s → u = { s with
      busy := u.busy, done := u.done, haz := u.haz, ieDone := u.ieDone, ieErr := u.ieErr,
      lastCmd := u.lastCmd, arg0 := u.arg0, arg1 := u.arg1, arg2 := u.arg2, host := u.host,
      reads := u.reads } → P u)
    (hreset : P State.reset)
    (hram : ∀ s off v, P s → ramWritable off = true → P { s with mem := writeWords s.mem off [v] })
    (hraise : ∀ s e, P s → P (s.raise e))
    (hexec : ∀ i s u, P s → exec i s = .next u → P u)
    {s u : State} (h : P s) (hs : step s = .next u) : P u := by
  have hstart : ∀ s : State, P s.startReset := fun s => hold State.reset _ hreset rfl
  have hev : ∀ s iv e, P s → P (s.busyEvent iv e).2 := by
    intro s iv e hp
    rcases busyEvent_cases s iv e with h | ⟨v, h⟩ | ⟨v, h⟩ | ⟨a, v, h⟩ | h | ⟨a, v, h⟩ <;> rw [h]
    · exact hstart s
    · exact hold s _ hp rfl
    · exact hold s _ hp rfl
    · exact hold s _ hp rfl
    · cases iv
      · exact hold s _ hp rfl
      · exact hp
    · cases iv
      · exact hold s _ hp rfl
      · exact hold s _ hp rfl
  have hhost : ∀ (s : State) l, P s → P { s with host := l } := fun s l hp => hold s _ hp rfl
  obtain ⟨_, ⟨_, rfl⟩ | ⟨op, rest, _, he⟩⟩ := step_cases hs
  · exact h
  rcases hostEvent_cases he with rfl | ⟨addr, rfl⟩ | ⟨off, v, rfl⟩ | ⟨w, hw⟩
  · exact hold _ _ (overlap_keeps hev hhost rest .clearing s.startReset (hstart s)) rfl
  · exact hold s _ h rfl
  · unfold State.busWrite
    split
    · exact hold s _ h rfl
    · split
      · exact hold s _ h rfl
      · split
        · exact hold s _ h rfl
        · split
          · exact hold s _ h rfl
          · split
            · exact hold s _ h rfl
            · split
              · rename_i hr
                exact hold _ _ (hram s off v h hr) rfl
              · exact hhost s rest h
  · obtain ⟨iv, t, ht, hcase⟩ := issueCommand_cases hw
    have hp : P t := by
      have := overlap_keeps hev hhost rest .command (s.issue w) (hold s _ h rfl)
      rwa [ht] at this
    rcases hcase with ⟨_, rfl⟩ | ⟨_, ⟨i, _, hx⟩ | ⟨e, _, hx⟩⟩
    · exact hold t _ hp rfl
    · exact hexec i t u hp hx
    · rcases run_error_cases hx with ⟨_, rfl⟩ | ⟨_, e', rfl⟩
      · exact hold t _ hp rfl
      · exact hold _ _ (hraise t e' hp) rfl

end Sys2Proof.Machine
end

