-- ==== Sys2Proof/Laws/Tables.lean ====
section
/-! SUPPORT. What the integer sine series of the tables answers: the sine of its angle, up to a stated error. -/

namespace Sys2Proof.Machine

/-- The sine series from degree `k` on as a multiple of its first term, `f` terms of it. -/
noncomputable def sineCoeff (X : ℝ) : Nat → Nat → ℝ
  | 0, _ => 0
  | f + 1, k => 1 - X ^ 2 / ((k + 1) * (k + 2)) * sineCoeff X f (k + 2)

theorem sineRatio_le {X : ℝ} (hX : 0 ≤ X) (hX2 : X ≤ 2) {k : Nat} (hk : 1 ≤ k) :
    0 ≤ X ^ 2 / (((k : ℝ) + 1) * (k + 2)) ∧ X ^ 2 / (((k : ℝ) + 1) * (k + 2)) ≤ 1 := by
  have hk' : (1 : ℝ) ≤ k := by exact_mod_cast hk
  refine ⟨by positivity, (div_le_one (by positivity)).2 (by nlinarith)⟩

theorem sineCoeff_mem {X : ℝ} (hX : 0 ≤ X) (hX2 : X ≤ 2) (f : Nat) :
    ∀ k, 1 ≤ k → 0 ≤ sineCoeff X f k ∧ sineCoeff X f k ≤ 1 := by
  induction f with
  | zero => intro k _; simp [sineCoeff]
  | succ f ih =>
    intro k hk
    obtain ⟨h₁, h₂⟩ := sineRatio_le hX hX2 hk
    obtain ⟨h₃, h₄⟩ := ih (k + 2) (by omega)
    simp only [sineCoeff]
    constructor <;> nlinarith [mul_le_one₀ h₂ h₃ h₄, mul_nonneg h₁ h₃]

/-- The terms of the coefficient are the terms of the sine series. -/
theorem sineCoeff_sum (X : ℝ) (f : Nat) : ∀ k, X ^ k / (k.factorial : ℝ) * sineCoeff X f k =
    ∑ j ∈ Finset.range f, (-1) ^ j * (X ^ (k + 2 * j) / ((k + 2 * j).factorial : ℝ)) := by
  induction f with
  | zero => intro k; simp [sineCoeff]
  | succ f ih =>
    intro k
    rw [Finset.sum_range_succ', sineCoeff]
    have h : X ^ k / (k.factorial : ℝ) * (X ^ 2 / (((k : ℝ) + 1) * (k + 2))) =
        X ^ (k + 2) / ((k + 2).factorial : ℝ) := by
      rw [Nat.factorial_succ, Nat.factorial_succ]
      push_cast
      field_simp
      ring
    rw [mul_sub, ← mul_assoc, h, ih (k + 2), Finset.sum_congr rfl
      (g := fun j => -((-1) ^ (j + 1) * (X ^ (k + 2 * (j + 1)) / ((k + 2 * (j + 1)).factorial : ℝ))))
      (fun j _ => by rw [show k + 2 + 2 * j = k + 2 * (j + 1) by ring, pow_succ]; ring), Finset.sum_neg_distrib]
    simp
    ring

theorem sineTail_le (x : Nat) (f k t : Nat) : sineTail x f k t ≤ t := by
  cases f with
  | zero => exact Nat.zero_le _
  | succ f => exact Nat.sub_le _ _

/-- Each term of `sineTail` loses less than one unit. -/
theorem sineTail_error {x : Nat} (hx : x ≤ 2 * 2 ^ 160) (f : Nat) : ∀ k t, 1 ≤ k →
    |(sineTail x f k t : ℝ) - t * sineCoeff (x / 2 ^ 160) f k| ≤ f := by
  have hX : (0 : ℝ) ≤ x / 2 ^ 160 := by positivity
  have hX2 : (x / 2 ^ 160 : ℝ) ≤ 2 := by
    rw [div_le_iff₀ (by positivity)]; exact_mod_cast hx
  induction f with
  | zero => intro k t _; simp [sineTail, sineCoeff]
  | succ f ih =>
    intro k t hk
    obtain ⟨h₁, h₂⟩ := sineRatio_le hX hX2 hk
    obtain ⟨h₃, h₄⟩ := sineCoeff_mem hX hX2 f (k + 2) (by omega)
    set q : ℝ := (x / 2 ^ 160) ^ 2 / (((k : ℝ) + 1) * (k + 2)) with hq
    set t' := t * x * x / 2 ^ 320 / ((k + 1) * (k + 2))
    have hd : t' = t * x * x / (2 ^ 320 * ((k + 1) * (k + 2))) := Nat.div_div_eq_div_mul _ _ _
    have hr : (t * q : ℝ) = ((t * x * x : Nat) : ℝ) / ((2 ^ 320 * ((k + 1) * (k + 2)) : Nat) : ℝ) := by
      simp only [hq, Nat.cast_mul, Nat.cast_pow, Nat.cast_add, Nat.cast_ofNat, Nat.cast_one]
      rw [show (2 : ℝ) ^ 320 = 2 ^ 160 * 2 ^ 160 from pow_add 2 160 160]
      field_simp
    have hlo : (t' : ℝ) ≤ t * q := by rw [hr, hd]; exact Nat.cast_div_le
    have hhi : (t * q : ℝ) - 1 < t' := by
      have := Nat.lt_floor_add_one ((t * q : ℝ))
      rw [hr, Nat.floor_div_eq_div, ← hd, ← hr] at this
      linarith
    have hle : t' ≤ t := by
      have : (t' : ℝ) ≤ t := le_trans hlo (mul_le_of_le_one_right (by positivity) h₂)
      exact_mod_cast this
    have hs : (sineTail x (f + 1) k t : ℝ) = t - sineTail x f (k + 2) t' := by
      rw [sineTail, Nat.cast_sub (le_trans (sineTail_le _ _ _ _) hle)]
    have hi := abs_le.1 (ih (k + 2) t' (by omega))
    rw [hs, sineCoeff, ← hq, abs_le]
    push_cast
    have e : (t : ℝ) * (1 - q * sineCoeff (x / 2 ^ 160) f (k + 2)) =
      t - (t * q - t') * sineCoeff (x / 2 ^ 160) f (k + 2) - t' * sineCoeff (x / 2 ^ 160) f (k + 2) := by ring
    rw [e]
    have h₅ : 0 ≤ (t * q - t' : ℝ) * sineCoeff (x / 2 ^ 160) f (k + 2) := mul_nonneg (by linarith) h₃
    have h₆ : (t * q - t' : ℝ) * sineCoeff (x / 2 ^ 160) f (k + 2) ≤ 1 := mul_le_one₀ (by linarith) h₃ h₄
    constructor <;> linarith [hi.1, hi.2]

/-- 24 terms of the sine series, by the alternating remainder. -/
theorem sineCoeff_error {X : ℝ} (hX : 0 ≤ X) (hX2 : X ≤ 2) :
    |X * sineCoeff X 24 1 - Real.sin X| ≤ X ^ 49 / (Nat.factorial 49 : ℝ) := by
  have ha : Antitone fun n : Nat => X ^ (2 * n + 1) / ((2 * n + 1).factorial : ℝ) := by
    refine antitone_nat_of_succ_le fun n => ?_
    obtain ⟨h₁, h₂⟩ := sineRatio_le hX hX2 (k := 2 * n + 1) (by omega)
    have h : X ^ (2 * (n + 1) + 1) / ((2 * (n + 1) + 1).factorial : ℝ) =
        X ^ (2 * n + 1) / ((2 * n + 1).factorial : ℝ) *
          (X ^ 2 / (((2 * n + 1 : Nat) + 1 : ℝ) * ((2 * n + 1 : Nat) + 2))) := by
      rw [show 2 * (n + 1) + 1 = 2 * n + 1 + 1 + 1 by ring, Nat.factorial_succ (2 * n + 1 + 1),
        Nat.factorial_succ (2 * n + 1)]
      push_cast
      field_simp
      ring
    rw [h]
    exact mul_le_of_le_one_right (by positivity) h₂
  have hs := (Real.hasSum_sin X).tendsto_sum_nat
  have hs' : Filter.Tendsto (fun n => ∑ i ∈ Finset.range n,
      (-1) ^ i * (X ^ (2 * i + 1) / ((2 * i + 1).factorial : ℝ))) Filter.atTop (nhds (Real.sin X)) := by
    simpa only [mul_div_assoc] using hs
  have hlo := ha.alternating_series_le_tendsto hs' 12
  have hhi := ha.tendsto_le_alternating_series hs' 12
  have hc := sineCoeff_sum X 24 1
  rw [Finset.sum_range_succ] at hhi
  simp only [show ∀ j, 1 + 2 * j = 2 * j + 1 from fun j => Nat.add_comm _ _, pow_one, Nat.factorial_one,
    Nat.cast_one, div_one] at hc
  rw [hc, abs_le]
  norm_num at hlo hhi ⊢
  constructor <;> linarith

/-- The model's π is within 10^-20 of π. -/
theorem piUnits_error : |(piUnits : ℝ) - Real.pi * 2 ^ 160| ≤ 2 ^ 160 / 10 ^ 20 := by
  have h₁ := Real.pi_gt_d20
  have h₂ := Real.pi_lt_d20
  rw [piUnits, abs_le]
  constructor <;> norm_num at h₁ h₂ ⊢ <;> linarith

/-- `sineUnits num den` is sin(num·π/den) in units of 2^-160, up to 2^100 of them. -/
theorem sineUnits_error {num den : Nat} (hd : 0 < den) (h : 2 * num ≤ den) :
    |(sineUnits num den : ℝ) - Real.sin (num * Real.pi / den) * 2 ^ 160| ≤ 2 ^ 100 := by
  have hd' : (0 : ℝ) < den := by exact_mod_cast hd
  set x := num * piUnits / den with hx
  set r : ℝ := num / den with hr
  have hr0 : 0 ≤ r := by positivity
  have hr2 : r ≤ 1 / 2 := by
    rw [hr, div_le_iff₀ hd']
    have : ((2 * num : Nat) : ℝ) ≤ den := by exact_mod_cast h
    push_cast at this
    linarith
  have e : ((num * piUnits : Nat) : ℝ) / den = r * piUnits := by rw [hr]; push_cast; ring
  have hlo : (x : ℝ) ≤ r * piUnits := by rw [← e]; exact Nat.cast_div_le
  have hhi : r * piUnits - 1 < x := by
    have := Nat.lt_floor_add_one (((num * piUnits : Nat) : ℝ) / den)
    rw [Nat.floor_div_eq_div, e] at this
    linarith
  have hp := abs_le.1 piUnits_error
  have hX : (0 : ℝ) ≤ x / 2 ^ 160 := by positivity
  have hπ := Real.pi_lt_d2
  have hX2 : (x / 2 ^ 160 : ℝ) ≤ 2 := by
    rw [div_le_iff₀ (by positivity)]
    nlinarith
  have h₁ := abs_le.1 (sineTail_error (x := x) (by
    rw [div_le_iff₀ (by positivity)] at hX2; exact_mod_cast hX2) 24 1 x (by omega))
  have h₂ := abs_le.1 (sineCoeff_error hX hX2)
  have h₃ : (x / 2 ^ 160 : ℝ) ^ 49 / (Nat.factorial 49 : ℝ) ≤ 2 ^ 49 / (Nat.factorial 49 : ℝ) := by gcongr
  have hθ : |(x / 2 ^ 160 : ℝ) - num * Real.pi / den| ≤ 1 / 2 ^ 160 + 1 / 10 ^ 20 := by
    rw [show (num * Real.pi / den : ℝ) = r * Real.pi by rw [hr]; ring, abs_le]
    have hx' : (x : ℝ) = x / 2 ^ 160 * 2 ^ 160 := by field_simp
    constructor <;> nlinarith
  have h₄ := abs_le.1 (le_trans (Real.abs_sin_sub_sin_le _ _) hθ)
  have hu : (sineUnits num den : ℝ) = sineTail x 24 1 x := rfl
  have hm : (x : ℝ) * sineCoeff (x / 2 ^ 160) 24 1 = x / 2 ^ 160 * sineCoeff (x / 2 ^ 160) 24 1 * 2 ^ 160 := by
    field_simp
  rw [hm] at h₁
  rw [hu, abs_le]
  generalize Real.sin (x / 2 ^ 160) = S at h₂ h₄
  generalize Real.sin (num * Real.pi / den) = T at h₄ ⊢
  generalize (x / 2 ^ 160 : ℝ) * sineCoeff (x / 2 ^ 160) 24 1 = C at h₁ h₂
  have h₅ : (2 : ℝ) ^ 49 / (Nat.factorial 49 : ℝ) ≤ 1 / 10 ^ 40 := by norm_num [Nat.factorial]
  generalize (sineTail x 24 1 x : ℝ) = U at h₁ ⊢
  obtain ⟨a₁, a₂⟩ := h₁
  obtain ⟨b₁, b₂⟩ := h₂
  obtain ⟨c₁, c₂⟩ := h₄
  norm_num at a₁ a₂ c₁ c₂ h₅ ⊢
  constructor <;> linarith

end Sys2Proof.Machine
end

