-- ==== Sys2Proof/Tests/Slice0.lean ====
section
/-! SUPPORT. Tests. Expected values come from the spec: the encodings of R80-R86 and the vectors of
95_test_vectors.md, named in each comment. Then a witness for the hypotheses of each statement. -/

set_option Elab.async false

namespace Sys2Proof.Tests

open Sys2Proof.Machine

/-! Small states, and what a command or a step answers. -/

/-- The next state of a command; `s` itself for a stop. -/
def next (i : Instr) (s : Machine.State) : Machine.State :=
  match exec i s with
  | .next u => u
  | _ => s

/-- The next state of a step; `s` itself for a stop. -/
def stepped (s : Machine.State) : Machine.State :=
  match step s with
  | .next u => u
  | _ => s

/-- The outcome is a next state. -/
def answers : Host.Outcome Machine.State Fault Refusal → Bool
  | .next _ => true
  | _ => false

theorem next_eq {i : Instr} {s : Machine.State} (h : answers (exec i s) = true) : exec i s = .next (next i s) := by
  unfold next
  split
  · assumption
  · rename_i hn
    cases ho : exec i s with
    | next u => exact absurd ho (hn u)
    | fault r => rw [ho] at h; exact absurd (show false = true from h) (by decide)
    | refused r => rw [ho] at h; exact absurd (show false = true from h) (by decide)

theorem stepped_eq {s : Machine.State} (h : answers (step s) = true) : step s = .next (stepped s) := by
  unfold stepped
  split
  · assumption
  · rename_i hn
    cases ho : step s with
    | next u => exact absurd ho (hn u)
    | fault r => rw [ho] at h; exact absurd (show false = true from h) (by decide)
    | refused r => rw [ho] at h; exact absurd (show false = true from h) (by decide)

/-- ARG0-ARG2 set. -/
def args (s : Machine.State) (a b c : Word) : Machine.State := { s with arg0 := a, arg1 := b, arg2 := c }

/-- The host's next access is a write of `v` at `off`, followed by `rest`. -/
def writing (s : Machine.State) (off v : Word) (rest : List HostOp) : Machine.State :=
  { s with host := ⟨false, .write off v⟩ :: rest }

/-- The latch: STATUS.ERR and ERR_INFO. -/
def latch (s : Machine.State) : BitVec 4 × Word := (s.err, s.errInfo)

/-- BBUF of section 2 of the vectors (0xA5 0x3C 0xFF 0x01), the window (0, len) and the cursor at pos. -/
def bits (len pos : BitVec 20) : Machine.State :=
  { State.reset with mem := writeWords [] 0x10000 [0x01FF3CA5#32], brLen := len, brPos := pos }

/-- Table 0 of section 3 with `n` of its entries, in the given STATE; BBUF[0] = byte, the window (0, len). -/
def table0 (state : BitVec 2) (count : BitVec 10) (byte : Byte) (len : BitVec 20) : Machine.State :=
  { State.reset with
    vlc := State.reset.vlc.set 0 { state := state, maxlen := 3, count := count }
    vlcRam := [(0, { code := 0, len := 1, sym := 10 }), (1, { code := 2, len := 2, sym := 20 }),
      (2, { code := 6, len := 3, sym := 30 })]
    mem := writeBytes [] 0x10000 [byte]
    brLen := len }

/-- After CONFIG nch, spf, maxsub from reset. -/
def stream (nch spf maxsub : Nat) : Machine.State := State.reset.configure nch spf maxsub

/-- A stream of two channels whose group 0 has both, on the bands of `mask`, with the matrix `mat`; the subframe
(256, 0) with the bands [0, 1), [1, 3), and the coefficients of MX-21. -/
def frame (mask : Word) (mat : Matrix) : Machine.State :=
  { (stream 2 256 2).setGroup 0
      { Group.reset with ch := 0x10, size := 2, offscale := true, mask := mask, mat := mat } with
    subN := 256
    subNb := 2
    subValid := true
    sfb := ((stream 2 256 2).sfb.set 1 1).set 2 3
    mem := writeWords (writeWords [] (coefAddr 0 0) [0x40400000, 0x3F800000, 0x40A00000, 0x40E00000])
      (coefAddr 1 0) [0x3F800000, 0xBF800000, 0x40000000, 0x41100000] }

/-! Widths: an ill-formed term for each check of WellFormed, which refuses it. -/

theorem test_illformed_brRead : WellFormed (.brRead 64) = false := by decide
theorem test_illformed_brPeek : WellFormed (.brPeek 64) = false := by decide
theorem test_illformed_brSkip : WellFormed (.brSkip 1048576) = false := by decide
theorem test_illformed_vlcBegin : WellFormed (.vlcBegin 0 64) = false := by decide
theorem test_illformed_subSet : WellFormed (.subSet 64) = false := by decide
theorem test_illformed_sfbSet : WellFormed (.sfbSet 64) = false := by decide

/-! Decoding: one word per command, written out from R81 and R84 as OPC and fields, highest bits first. -/

theorem test_decode_nop : decode 0b00000000000000000000000000000000#32 = .ok .nop := rfl
theorem test_decode_brInit : decode 0b00000001000000000000000000000000#32 = .ok .brInit := rfl
/-- n = 13 in bits [5:0]. -/
theorem test_decode_brRead : decode 0b00000010000000000000000000001101#32 = .ok (.brRead 13) := rfl
/-- n = 5. -/
theorem test_decode_brPeek : decode 0b00000011000000000000000000000101#32 = .ok (.brPeek 5) := rfl
/-- n = 2^19 + 1 in bits [19:0]. -/
theorem test_decode_brSkip : decode 0b00000100000010000000000000000001#32 = .ok (.brSkip 524289) := rfl
theorem test_decode_brTell : decode 0b00000101000000000000000000000000#32 = .ok .brTell := rfl
/-- t = 9 in bits [3:0]. -/
theorem test_decode_brVlc : decode 0b00000110000000000000000000001001#32 = .ok (.brVlc 9) := rfl
/-- maxlen = 19 in bits [13:8], t = 2. -/
theorem test_decode_vlcBegin : decode 0b00001000000000000001001100000010#32 = .ok (.vlcBegin 2 19) := rfl
theorem test_decode_vlcAdd : decode 0b00001001000000000000000000001110#32 = .ok (.vlcAdd 14) := rfl
theorem test_decode_vlcEnd : decode 0b00001010000000000000000000000101#32 = .ok (.vlcEnd 5) := rfl
/-- g = 5 in bits [2:0]. -/
theorem test_decode_grpSet : decode 0b00010000000000000000000000000101#32 = .ok (.grpSet 5) := rfl
theorem test_decode_mxIdent : decode 0b00010001000000000000000000000110#32 = .ok (.mxIdent 6) := rfl
theorem test_decode_mxMs45 : decode 0b00010010000000000000000000000011#32 = .ok (.mxMs45 3) := rfl
/-- j = 6 in bits [10:8], i = 5 in bits [6:4], g = 3. -/
theorem test_decode_mxWrite : decode 0b00010011000000000000011001010011#32 = .ok (.mxWrite 3 5 6) := rfl
/-- a = 37 in bits [21:16], k = 22 in bits [8:4], g = 3. -/
theorem test_decode_mxAng : decode 0b00010100001001010000000101100011#32 = .ok (.mxAng 3 22 37) := rfl
/-- s = 0xA5 in bits [15:8], g = 3. -/
theorem test_decode_mxSigns : decode 0b00010101000000001010010100000011#32 = .ok (.mxSigns 3 0xA5) := rfl
theorem test_decode_mxRot : decode 0b00010110000000000000000000000111#32 = .ok (.mxRot 7) := rfl
theorem test_decode_mxApply : decode 0b00010111000000000000000000000001#32 = .ok (.mxApply 1) := rfl
/-- nb = 20 in bits [5:0]. -/
theorem test_decode_subSet : decode 0b00100000000000000000000000010100#32 = .ok (.subSet 20) := rfl
/-- b = 33. -/
theorem test_decode_sfbSet : decode 0b00100001000000000000000000100001#32 = .ok (.sfbSet 33) := rfl
theorem test_decode_qsSet : decode 0b00100010000000000000000000000000#32 = .ok .qsSet := rfl
theorem test_decode_chQset : decode 0b00100011000000000000000000000010#32 = .ok (.chQset 2) := rfl
/-- b = 21 in bits [12:8], c = 6. -/
theorem test_decode_sfSet : decode 0b00100100000000000001010100000110#32 = .ok (.sfSet 6 21) := rfl
theorem test_decode_coefClr : decode 0b00100101000000000000000000000001#32 = .ok (.coefClr 1) := rfl
theorem test_decode_dequant : decode 0b00100110000000000000000000000101#32 = .ok (.dequant 5) := rfl
theorem test_decode_imdct : decode 0b00100111000000000000000000000011#32 = .ok (.imdct 3) := rfl
theorem test_decode_window : decode 0b00101000000000000000000000000010#32 = .ok (.window 2) := rfl
theorem test_decode_pcmZero : decode 0b00101001000000000000000000000100#32 = .ok (.pcmZero 4) := rfl
theorem test_decode_prevSet : decode 0b00101010000000000000000000000111#32 = .ok (.prevSet 7) := rfl
theorem test_decode_outEmit : decode 0b00110000000000000000000000000000#32 = .ok .outEmit := rfl
theorem test_decode_remapSet : decode 0b00111100000000000000000000000000#32 = .ok .remapSet := rfl
theorem test_decode_errClr : decode 0b00111101000000000000000000000000#32 = .ok .errClr := rfl
theorem test_decode_cfg : decode 0b00111111000000000000000000000000#32 = .ok .cfg := rfl
/-- BR-15, VLC-13, VLC-25, IM-6, ER-3: a reserved bit. -/
theorem test_decode_reserved :
    [0x02000040#32, 0x08000010#32, 0x060000F0#32, 0x27000008#32, 0x26000008#32].map decode =
      List.replicate 5 (.error .reservedBits) := rfl
/-- ER-1, ER-2: undefined opcodes, the second with bits that would be reserved in any format. -/
theorem test_decode_undefined :
    [0x07000000#32, 0xFF000001#32].map decode = List.replicate 2 (.error .undefinedOpcode) := rfl

/-! Bit reader and VLC (sections 2 and 3 of the vectors). -/

/-- CTX-24. -/
theorem test_nop : (next .nop State.reset).statusWord = 0x00000002#32 := by decide +kernel
/-- BR-18: the last legal window. -/
theorem test_brInit_last : ((next .brInit (args State.reset 524288 0 0)).brStart,
    (next .brInit (args State.reset 524288 0 0)).err) = (524288#20, 0#4) := by decide +kernel
/-- BR-19, and BR-17 where the 32-bit sum would wrap. -/
theorem test_brInit_past : latch (next .brInit (args State.reset 524280 9 0)) = (4, 3) ∧
    latch (next .brInit (args State.reset 0xFFFFFFFF 1 0)) = (4, 3) := by decide +kernel
/-- BR-1. -/
theorem test_brRead_32 : ((next (.brRead 32) (bits 32 0)).res0, (next (.brRead 32) (bits 32 0)).brPos) =
    (0xA53CFF01#32, 32#20) := by decide +kernel
/-- BR-10: OUT_OF_DATA with the cursor. -/
theorem test_brRead_short : latch (next (.brRead 5) (bits 8 4)) = (1, 4) ∧
    (next (.brRead 5) (bits 8 4)).brPos = 4#20 := by decide +kernel
/-- BR-3. -/
theorem test_brPeek : ((next (.brPeek 4) (bits 8 4)).res0, (next (.brPeek 4) (bits 8 4)).brPos) =
    (5#32, 4#20) := by decide +kernel
/-- BR-12. -/
theorem test_brSkip : (next (.brSkip 12) (bits 16 4)).brPos = 16#20 ∧
    latch (next (.brSkip 1) (bits 16 16)) = (1, 16) := by decide +kernel
/-- BR-16. -/
theorem test_brTell : (next .brTell (bits 40 7)).res0 = 7#32 := by decide +kernel
/-- VLC-6: a short code with fewer than MAXLEN bits left. -/
theorem test_brVlc_short : ((next (.brVlc 0) (table0 2 3 0x80 2)).res0, (next (.brVlc 0) (table0 2 3 0x80 2)).res1,
    (next (.brVlc 0) (table0 2 3 0x80 2)).brPos) = (20#32, 2#32, 2#20) := by decide +kernel
/-- VLC-4 and VLC-5: no match, and out of data. -/
theorem test_brVlc_none : latch (next (.brVlc 0) (table0 2 3 0xE0 3)) = (2, 0) ∧
    latch (next (.brVlc 0) (table0 2 3 0xC0 2)) = (1, 0) := by decide +kernel
/-- VLC-9. -/
theorem test_vlcBegin : ((next (.vlcBegin 2 19) State.reset).table 2).word = 0x00001301#32 := by decide +kernel
/-- VLC-11 and VLC-12. -/
theorem test_vlcBegin_range : latch (next (.vlcBegin 0 0) State.reset) = (4, 3) ∧
    latch (next (.vlcBegin 0 33) State.reset) = (4, 3) := by decide +kernel
/-- The third VLC_ADD of table 0. -/
theorem test_vlcAdd : (next (.vlcAdd 0) (args (table0 1 2 0 0) 6 0x001E0003 0)).vlcEntry 0 2 =
    { code := 6, len := 3, sym := 30 } := by decide +kernel
/-- VLC-15 and VLC-16. -/
theorem test_vlcAdd_bad : latch (next (.vlcAdd 0) (args (table0 1 0 0 0) 0 4 0)) = (5, 0x200) ∧
    latch (next (.vlcAdd 0) (args (table0 1 0 0 0) 4 2 0)) = (5, 0x200) := by decide +kernel
/-- VLC_STATUS[0] after the build of table 0. -/
theorem test_vlcEnd : ((next (.vlcEnd 0) (table0 1 3 0 0)).table 0).word = 0x00030302#32 := by decide +kernel
/-- VLC-19 and VLC-21. -/
theorem test_vlcEnd_bad : latch (next (.vlcEnd 0) (table0 1 0 0 0)) = (5, 0x300) ∧
    latch (next (.vlcEnd 0) (table0 2 3 0 0)) = (5, 0x100) := by decide +kernel

/-! Context (section 4). -/

/-- CTX-1. -/
theorem test_cfg : ((next .cfg (args State.reset 2 2048 16)).channel 7).prevLen = 2048#13 ∧
    (next .cfg (args State.reset 2 2048 16)).statusWord = 0x00000102#32 := by decide +kernel
/-- CTX-5: 256/4 = 64 < 128. -/
theorem test_cfg_bad : latch (next .cfg (args State.reset 1 256 4)) = (4, 3) := by decide +kernel
/-- CTX-21. -/
theorem test_remapSet : (next .remapSet (args State.reset 0x00453120 0 0)).remap6 = 0x453120#24 := by decide +kernel
/-- CTX-22. -/
theorem test_remapSet_bad : latch (next .remapSet (args State.reset 0x00543211 0 0)) = (4, 3) := by decide +kernel
/-- CTX-26. -/
theorem test_errClr : (next .errClr { bits 8 4 with err := 1, errCmd := 0x02000005, errInfo := 4 }) =
    { bits 8 4 with done := true } := by decide +kernel
/-- CTX-6. -/
theorem test_subSet : (next (.subSet 20) (args (stream 2 2048 16) 128 0 0)).busRead 0x058 = 0x80000014#32 := by
  decide +kernel
/-- CTX-8 and CTX-9. -/
theorem test_subSet_bad : latch (next (.subSet 20) (args (stream 2 2048 16) 127 0 0)) = (3, 1) ∧
    latch (next (.subSet 1) (args (stream 2 2048 16) 1024 1536 0)) = (3, 1) := by decide +kernel
/-- MX-24's boundary. -/
theorem test_sfbSet : (next (.sfbSet 1) (args (stream 2 256 2) 300 0 0)).bound 1 = 300 := by decide +kernel
/-- CTX-11. -/
theorem test_sfbSet_bad : latch (next (.sfbSet 1) (args (stream 2 2048 16) 4097 0 0)) = (4, 3) ∧
    latch (next (.sfbSet 33) (stream 2 2048 16)) = (4, 3) := by decide +kernel
/-- CTX-13. -/
theorem test_qsSet : (next .qsSet (args (stream 2 2048 16) 0xFFFFFFFB 0 0)).busRead 0x05C = 0xFFFFFFFB#32 := by
  decide +kernel
/-- CTX-14. -/
theorem test_qsSet_bad : latch (next .qsSet (args (stream 2 2048 16) 32768 0 0)) = (4, 3) ∧
    latch (next .qsSet (args (stream 2 2048 16) 0xFFFF7FFF 0 0)) = (4, 3) := by decide +kernel
/-- CTX-16. -/
theorem test_chQset : (next (.chQset 0) (args (stream 2 2048 16) 0 1 40)).busRead 0x10C = 0x00000028#32 := by
  decide +kernel
/-- CTX-15 and CTX-17. -/
theorem test_chQset_bad : latch (next (.chQset 0) (args (stream 2 2048 16) 0 256 0)) = (4, 3) ∧
    latch (next (.chQset 2) (stream 2 2048 16)) = (4, 3) := by decide +kernel
/-- CTX-12. -/
theorem test_sfSet : (next (.sfSet 0 2) (args (stream 2 2048 16) 38 0 0)).busRead 0x408 = 0x00000026#32 := by
  decide +kernel
/-- CTX-18: COEF[1][0..3] cleared, COEF[0][0] kept. -/
theorem test_coefClr : coef (next (.coefClr 1) (frame 0 ms45)).mem 1 3 = 0 ∧
    coef (next (.coefClr 1) (frame 0 ms45)).mem 0 0 = 0x40400000#32 := by decide +kernel
/-- CTX-19. -/
theorem test_prevSet : ((next (.prevSet 0) (args (stream 2 2048 16) 256 0 0)).channel 0).prevLen = 256#13 := by
  decide +kernel
/-- CTX-20. -/
theorem test_prevSet_bad : latch (next (.prevSet 0) (args (stream 2 2048 16) 4096 0 0)) = (4, 3) ∧
    latch (next (.prevSet 0) (args (stream 2 2048 16) 384 0 0)) = (4, 3) := by decide +kernel

/-! Matrices (section 5). -/

/-- MX-2. -/
theorem test_grpSet : [0x300, 0x304, 0x308, 0x1000, 0x1004, 0x1020, 0x1024].map
    (next (.grpSet 0) (args (stream 2 256 2) 0x10 0x2 0xFFFFFFFF)).busRead =
      [0x10#32, 0x2#32, 0xFFFFFFFF#32, 0x3F800000#32, 0, 0, 0x3F800000#32] := by decide +kernel
/-- MX-8: OFFSCALE with 3 members, a repeated member, a member that does not exist. -/
theorem test_grpSet_bad : latch (next (.grpSet 0) (args (stream 3 256 2) 0x210 0x103 0)) = (4, 3) ∧
    latch (next (.grpSet 0) (args (stream 3 256 2) 0x00 0x2 0)) = (4, 3) ∧
    latch (next (.grpSet 0) (args (stream 3 256 2) 0x30 0x2 0)) = (4, 3) := by decide +kernel
/-- MX-3. -/
theorem test_mxIdent : [(0, 0), (0, 1), (1, 0), (1, 1)].map
    (fun p : Nat × Nat => matGet ((next (.mxIdent 0) (frame 0 ms45)).group 0).mat p.1 p.2) =
      [0x3F800000#32, 0, 0, 0x3F800000#32] := by decide +kernel
/-- MX-1. -/
theorem test_mxMs45 : [(0, 0), (0, 1), (1, 0), (1, 1)].map
    (fun p : Nat × Nat => matGet ((next (.mxMs45 0) (frame 0 (identity 2))).group 0).mat p.1 p.2) =
      [0x3F350000#32, 0xBF350000#32, 0x3F350000#32, 0x3F350000#32] := by decide +kernel
/-- MX-6: the group is not set. -/
theorem test_mxMs45_unset : latch (next (.mxMs45 1) (stream 2 256 2)) = (6, 3) := by decide +kernel
/-- MX-4. -/
theorem test_mxWrite :
    matGet ((next (.mxWrite 0 1 0) (args (frame 0 ms45) 0xBF800000 0 0)).group 0).mat 1 0 = 0xBF800000#32 := by
  decide +kernel
/-- MX-5. -/
theorem test_mxWrite_bad : latch (next (.mxWrite 0 2 0) (frame 0 ms45)) = (4, 3) := by decide +kernel
/-- MX-13's angle. -/
theorem test_mxAng : (((next (.mxAng 0 0 16) (frame 0 ms45)).group 0).ang.getD 0 0) = 16#6 := by decide +kernel
/-- MX-19. -/
theorem test_mxAng_bad : latch (next (.mxAng 0 1 5) (frame 0 ms45)) = (4, 3) := by decide +kernel
/-- MX-12's signs; R165: a sign outside the group. -/
theorem test_mxSigns : ((next (.mxSigns 0 3) (frame 0 ms45)).group 0).sgn = 3#8 ∧
    latch (next (.mxSigns 0 4) (frame 0 ms45)) = (4, 3) := by decide +kernel
/-- MX-18: one member. -/
theorem test_mxRot_one : matGet ((next (.mxRot 0)
    ((stream 2 256 2).setGroup 0 { Group.reset with ch := 1, size := 1 })).group 0).mat 0 0 = 0xBF800000#32 := by
  decide +kernel
/-- MX-17: three members, every angle 16, every sign +. -/
theorem test_mxRot_three : [(0, 0), (0, 1), (0, 2), (1, 0), (1, 1), (1, 2), (2, 0), (2, 1), (2, 2)].map
    (fun p : Nat × Nat => matGet ((next (.mxRot 0) ((stream 3 256 2).setGroup 0
      { Group.reset with ch := 0x210, size := 3, sgn := 7, ang := Vector.replicate 28 16 })).group 0).mat p.1 p.2) =
      [0x3EFFFFFF#32, 0xBEFFFFFF#32, 0xBF3504F3#32, 0x3E15F61A#32, 0x3F5A8278#32, 0xBEFFFFFF#32, 0x3F5A8278#32,
        0x3E15F61A#32, 0x3EFFFFFF#32] := by decide +kernel
/-- MX-21: band 0 is scaled, band 1 gets the 45° matrix, position 3 is in no band. -/
theorem test_mxApply : (List.range 4).map (coef (next (.mxApply 0) (frame 2 ms45)).mem 0) =
      [0x4087C000#32, 0x3FB50000#32, 0x4007C000#32, 0x40E00000#32] ∧
    (List.range 4).map (coef (next (.mxApply 0) (frame 2 ms45)).mem 1) =
      [0x3FB50000#32, 0x00000000#32, 0x409E6000#32, 0x41100000#32] := by decide +kernel
/-- MX-23 and MX-24. -/
theorem test_mxApply_bad : latch (next (.mxApply 0) { frame 2 ms45 with subValid := false }) = (6, 2) ∧
    latch (next (.mxApply 0) { frame 2 ms45 with sfb := (frame 2 ms45).sfb.set 2 300 }) = (3, 2) := by decide +kernel

/-! Dequantizer, transform, window and output (sections 6 to 8). -/

/-- DQ-1's context: the bands [0, 2) and [2, 4) of a subframe of 128. -/
def dq1 : Machine.State :=
  { (stream 1 256 2).setChannel 0 { ((stream 1 256 2).channel 0) with
      sfstep := 1, maxsf := 40, sf := ((Vector.replicate 32 0).set 0 40).set 1 34 } with
    subN := 128
    subNb := 2
    subValid := true
    sfb := ((stream 1 256 2).sfb.set 1 2).set 2 4
    mem := writeWords [] (coefAddr 0 0) [0x40400000, 0xC0000000, 0x40400000, 0xC0000000, 0x41100000] }

/-- DQ-1. -/
theorem test_dequant : (List.range 5).map (coef (next (.dequant 0) dq1).mem 0) =
    [0x40400000#32, 0xC0000000#32, 0x3FC074B5#32, 0xBF804DCE#32, 0x00000000#32] := by decide +kernel
/-- DQ-9 (QSTEP + QMOD < 0) and DQ-13 (a channel that does not exist). -/
theorem test_dequant_bad : latch (next (.dequant 0) { dq1 with qstep := -5 }) = (3, 3) ∧
    latch (next (.dequant 1) dq1) = (4, 3) := by decide +kernel
/-- The GAIN table of section 6. -/
theorem test_gain : [0, 1, -1, 3, 6, -6, 20, -20, 40, 60, -120, 770, 771, -880, -903, -904].map gain =
    [0x3F800000#32, 0x3F8F9E4D#32, 0x3F642905#32, 0x3FB4CE08#32, 0x3FFF64C1#32, 0x3F004DCE#32, 0x41200000#32,
      0x3DCCCCCD#32, 0x42C80000#32, 0x447A0000#32, 0x358637BD#32, 0x7F6DE741#32, 0x7F800000#32, 0x00000007#32,
      0x00000001#32, 0x00000000#32] := by decide +kernel
/-- R190: on a valid subframe IMDCT completes; the samples are open. -/
theorem test_imdct : (next (.imdct 0) dq1).statusWord = 0x00000102#32 := by decide +kernel
/-- IM-4 and IM-5. -/
theorem test_imdct_bad : latch (next (.imdct 0) (stream 1 256 2)) = (6, 2) ∧
    latch (next (.imdct 3) (stream 1 256 2)) = (4, 3) := by decide +kernel
/-- The values of ROT_SIN (section 5) and WIN (section 8). -/
theorem test_sines : [0, 1, 8, 16, 24, 31, 32].map rotSin =
      [0x00000000#32, 0x3D48FB30#32, 0x3EC3EF15#32, 0x3F3504F3#32, 0x3F6C835E#32, 0x3F7FB10F#32, 0x3F800000#32] ∧
    [0, 1, 2, 63, 64, 125, 126, 127].map (win 128) =
      [0x3BC90F88#32, 0x3C96C9B6#32, 0x3CFB49BA#32, 0x3F33E7BC#32, 0x3F36206C#32, 0x3F7FE129#32, 0x3F7FF4E6#32,
        0x3F7FFEC4#32] ∧
    [0, 255].map (win 256) = [0x3B490FC6#32, 0x3F7FFFB1#32] := by decide +kernel
/-- WN-4's pair: PCM[0][64] = 2.0 and PCM[0][191] = −1.0, W = 128. -/
theorem test_window_pair : [0, 127].map (crossFade (writeWords (writeWords [] (pcmAddr 0 64) [0x40000000#32])
    (pcmAddr 0 191) [0xBF800000#32]) 0 64 128) = [0x400063EA#32, 0xBF7CDA86#32] := by decide +kernel
/-- WN-5 and WN-7: PREV_LEN becomes N; a channel that does not exist. -/
theorem test_window : ((next (.window 0) dq1).channel 0).prevLen = 128#13 ∧
    latch (next (.window 2) (stream 2 256 2)) = (4, 3) := by decide +kernel
/-- WN-8: PCM[0][2048] is +0, PCM[0][2047] kept. -/
theorem test_pcmZero :
    let u := next (.pcmZero 0) { args (stream 1 2048 1) 1024 1024 0 with
      mem := writeWords [] (pcmAddr 0 2047) [0x3F800000, 0x3F800000] }
    (pcm u.mem 0 2047, pcm u.mem 0 2048) = (0x3F800000#32, 0x00000000#32) := by decide +kernel
/-- WN-9. -/
theorem test_pcmZero_bad : latch (next (.pcmZero 0) (args (stream 1 2048 1) 1024 1025 0)) = (4, 3) := by
  decide +kernel
/-- WN-11: OUT[0..3] from PCM[0][0..1] = −1.0, 70000.0 and PCM[1][0..1] = 2.4, NaN. -/
theorem test_outEmit :
    let u := next .outEmit { stream 2 128 1 with
      mem := writeWords (writeWords [] (pcmAddr 0 0) [0xBF800000, 0x4788B800]) (pcmAddr 1 0) [0x4019999A, 0x7FC00000] }
    (u.busRead 0x80000, u.busRead 0x80004) = (0x0002FFFF#32, 0x00007FFF#32) := by decide +kernel
/-- WN-13: the slots of six channels go through REMAP6. -/
theorem test_remap_slots : (List.range 6).map { stream 6 128 1 with remap6 := 0x453120 }.slotChannel =
    [0, 2, 1, 3, 5, 4] := by decide +kernel
/-- clip16: 2.4, −1.0, 70000.0, 0.49999997, −32767.5, 32766.5, −0.0. -/
theorem test_clip16 :
    [0x4019999A#32, 0xBF800000#32, 0x4788B800#32, 0x3EFFFFFF#32, 0xC6FFFF00#32, 0x46FFFD00#32, 0x80000000#32].map clip16
      = [2#16, -1#16, 32767#16, 0#16, -32768#16, 32766#16, 0#16] := by decide +kernel

/-! The step (section 9). -/

/-- ER-1. -/
theorem test_step_undefined : let u := stepped (writing State.reset 0x00C 0x07000000 [])
    (u.statusWord, u.errCmd) = (0x00000042#32, 0x07000000#32) := by decide +kernel
/-- ER-6: the lock drops CFG, which still becomes LASTCMD. -/
theorem test_step_locked :
    let u := stepped (writing { args State.reset 1 256 2 with err := 6 } 0x00C 0x3F000000 [])
    (u.statusWord, u.lastCmd) = (0x00000062#32, 0x3F000000#32) := by decide +kernel
/-- ER-8: IRQ after a NOP with IE_DONE. -/
theorem test_step_irq : (stepped (writing { State.reset with ieDone := true } 0x00C 0 [])).irq = true := by
  decide +kernel
/-- ER-10: a soft reset. -/
theorem test_step_reset : stepped (writing dq1 0x004 1 []) = State.reset := by decide +kernel
/-- ER-12: STATUS keeps what is not write-1-to-clear. -/
theorem test_step_status : (stepped (writing { State.reset with done := true, configured := true } 0x008 0x1F1
    [])).statusWord = 0x00000102#32 := by decide +kernel
/-- R256: an ARG0 write while NOP runs is dropped and sets HAZ. -/
theorem test_step_hazard : let u := stepped (writing State.reset 0x00C 0 [⟨true, .write 0x010 5⟩])
    (u.arg0, u.statusWord) = (0#32, 0x00000006#32) := by decide +kernel
/-- The instruction placed by withFetchWord is the one the next step runs: BR_READ 32, BR-1. -/
theorem test_withFetchWord : (stepped ((bits 32 0).withFetchWord 32 0x02000020)).res0 = 0xA53CFF01#32 := by
  decide +kernel

/-! Witnesses: for each statement with hypotheses, states and operands that meet them all, clause by clause. -/

theorem waits_nil : Spec.Waits [] := fun op h => by cases h

theorem sound_reset : Spec.Sound State.reset := by unfold Spec.Sound; decide +kernel

theorem sound_bits : Spec.Sound (bits 32 0) := by unfold Spec.Sound; decide +kernel

theorem notReset_read (a : Word) : ¬Spec.IsReset (.read a) := by
  rintro (h | ⟨_, _, h, _⟩) <;> cases h

theorem notReset_write {a v : Word} (h : busOffset a ≠ 0x004 ∨ v.getLsbD 0 = false) : ¬Spec.IsReset (.write a v) := by
  rintro (h' | ⟨_, _, h', ha, hv⟩)
  · cases h'
  · cases h'
    rcases h with h | h
    · exact h ha
    · rw [h] at hv; cases hv

theorem groupOk_of {nch : Nat} {r : Group}
    (h : r.count ≤ 8 ∧ r.count ≤ nch ∧ (∀ k, k < 8 → k < r.count → r.member k < nch) ∧
      (∀ k, k < 8 → r.count ≤ k → r.member k = 0) ∧
      (∀ k, k < 8 → ∀ l, l < 8 → k < r.count → l < r.count → r.member k = r.member l → k = l) ∧
      (r.offscale = true → r.count = 2) ∧ r.sgn.toNat < 2 ^ r.count ∧
      ∀ i, i < 8 → ∀ j, j < 8 → ¬(i < r.count ∧ j < r.count) → matGet r.mat i j = 0) : GroupOk nch r := by
  obtain ⟨h₈, h₁, h₂, h₃, h₄, h₅, h₆, h₇⟩ := h
  refine ⟨h₁, fun k hk => h₂ k (by omega) hk, fun k hk => ?_,
    fun k l hk hl => h₄ k (by omega) l (by omega) hk hl, h₅, h₆, fun i j hij => ?_⟩
  · by_cases h : k < 8
    · exact h₃ k h hk
    · exact r.member_of_ge (by omega)
  · by_cases h : i < 8 ∧ j < 8
    · exact h₇ i h.1 j h.2 hij
    · exact matGet_of_ge _ (by omega)

theorem frame_configInv : ConfigInv (frame 2 ms45) :=
  ⟨by decide +kernel, State.bound_le_of _ (by decide +kernel), by decide +kernel,
    by unfold LegalConfig; decide +kernel, by unfold LegalSubframe; decide +kernel⟩

theorem frame_groupInv : GroupInv (frame 2 ms45) :=
  ⟨by decide +kernel, fun g => groupOk_of
    ⟨by revert g; decide +kernel, by revert g; decide +kernel, by revert g; decide +kernel,
      by revert g; decide +kernel, by revert g; decide +kernel, by revert g; decide +kernel,
      by revert g; decide +kernel, by revert g; decide +kernel⟩⟩

theorem dq1_configInv : ConfigInv dq1 :=
  ⟨by decide +kernel, State.bound_le_of _ (by decide +kernel), by decide +kernel,
    by unfold LegalConfig; decide +kernel, by unfold LegalSubframe; decide +kernel⟩

theorem table0_vlcInv : VlcInv (table0 2 3 0 0) := by
  refine ⟨by decide +kernel, fun t => ?_⟩
  unfold EntryOk PrefixFreeTable
  refine ⟨by revert t; decide +kernel, by revert t; decide +kernel, by revert t; decide +kernel,
    by revert t; decide +kernel, by revert t; decide +kernel, fun ht => ⟨by revert t; decide +kernel, ?_⟩⟩
  intro e f he hf
  revert e
  revert f
  revert t
  decide +kernel

theorem test_met_DecodeOfEncode : WellFormed (.brSkip 1048575) = true ∧ WellFormed (.vlcBegin 15 63) = true := by
  decide
/-- Every field at its largest value: g = 7, k = 31, a = 63. -/
theorem test_met_EncodeOfDecode : decode 0x143F01F7#32 = .ok (.mxAng 7 31 63) := rfl
/-- The access at an address that reaches 0x00C through undecoded bits. -/
theorem test_met_StepRunsDecodedCommand :
    let s := writing (bits 32 0) 0x8010000F 0x02000020 []
    Spec.Sound s ∧ s.host = ⟨false, .write 0x8010000F 0x02000020⟩ :: [] ∧ busOffset 0x8010000F = 0x00C ∧
      Spec.Waits [] ∧ decode 0x02000020#32 = .ok (.brRead 32) :=
  ⟨sound_bits, rfl, by decide, waits_nil, rfl⟩
theorem test_met_IllegalWordRaises :
    Spec.Sound (writing State.reset 0x00C 0x07000000 []) ∧ State.reset.err = 0 ∧ busOffset 0x00C = 0x00C ∧
      Spec.Waits [] ∧ Spec.UndefinedOpcode 0x07000000#32 ∧ Spec.UndefinedOpcode 0x40000000#32 ∧
      ¬Spec.UndefinedOpcode 0x26000008#32 ∧ ∀ r ∈ Spec.tableRows, 0x26000008#32 &&& r.1 ≠ r.2 :=
  ⟨sound_reset, rfl, by decide, waits_nil, by unfold Spec.UndefinedOpcode; decide,
    by unfold Spec.UndefinedOpcode; decide, by unfold Spec.UndefinedOpcode; decide,
    by simp [Spec.tableRows]⟩
/-- A dropped read, a STATUS write and a CTRL write inside BR_READ's interval. -/
theorem test_met_CommandUnaffectedByHostAccesses :
    let inside : List HostOp := [⟨true, .read 0x10000⟩, ⟨true, .write 0x008 4⟩, ⟨true, .write 0x004 2⟩]
    Spec.Sound (writing (bits 32 0) 0x00C 0x02000020 (inside ++ [])) ∧
      (∀ op ∈ inside, op.early = true ∧ ¬Spec.IsReset op.event) ∧ Spec.Waits [] := by
  refine ⟨sound_bits, ?_, waits_nil⟩
  intro op h
  simp only [List.mem_cons, List.not_mem_nil, or_false] at h
  rcases h with rfl | rfl | rfl
  · exact ⟨rfl, notReset_read _⟩
  · exact ⟨rfl, notReset_write (.inl (by decide))⟩
  · exact ⟨rfl, notReset_write (.inr (by decide))⟩
/-- Each kind of access of R256 inside NOP's interval, and inside the clearing of a soft reset and of a reset that aborts
a command. -/
theorem test_met_AccessInsideBusyInterval :
    let early : List HostEvent := [.read 0x008, .read 0x000, .read 0x020, .write 0x004 2, .write 0x004 1,
      .write 0x008 4, .write 0x00C 0, .write 0x010 5]
    (∀ e ∈ early, let s := writing State.reset 0x00C 0 [⟨true, e⟩]
      Spec.Sound s ∧ s.host = ⟨false, .write 0x00C 0⟩ :: ⟨true, e⟩ :: []) ∧
    (∀ e ∈ early, let s := writing State.reset 0x004 1 [⟨true, e⟩]
      Spec.Sound s ∧ s.host = [⟨false, .write 0x004 1⟩] ++ ⟨true, e⟩ :: []) ∧
    Spec.Waits [] ∧ decode 0 = .ok .nop ∧
    (busOffset 0x000 = 0x000 ∧ busOffset 0x004 = 0x004 ∧ busOffset 0x008 = 0x008 ∧ busOffset 0x00C = 0x00C ∧
      busOffset 0x010 = 0x010 ∧ busOffset 0x020 = 0x020) ∧
    ((2 : Word).getLsbD 0 = false ∧ (1 : Word).getLsbD 0 = true) ∧
    Spec.StartsReset [⟨false, .write 0x004 1⟩] ∧
    Spec.StartsReset [⟨false, .write 0x00C 0⟩, ⟨true, .powerOnReset⟩] :=
  ⟨fun _ _ => ⟨sound_reset, rfl⟩, fun _ _ => ⟨sound_reset, rfl⟩, waits_nil, rfl, by decide, by decide,
    ⟨_, _, .inr ⟨_, _, rfl, by decide, by decide⟩, .inl rfl⟩,
    ⟨false, _, .inl rfl, .inr ⟨0x00C, 0, by decide, rfl⟩⟩⟩
/-- R250, R256: a CMD write dropped inside the clearing issues nothing and leaves STATUS 0. -/
theorem test_clearing_write :
    ((stepped (writing State.reset 0x004 1 [⟨true, .write 0x00C 0⟩])).statusWord,
      (stepped (writing State.reset 0x004 1 [⟨true, .write 0x00C 0⟩])).lastCmd) = (0#32, 0#32) := by decide +kernel
theorem test_met_ResetRestoresEveryItem :
    Spec.Sound (writing (bits 32 0) 0x004 1 []) ∧ Spec.IsReset (.write 0x004 1) ∧ Spec.IsReset .powerOnReset ∧
      Spec.Waits [] ∧ (writing (bits 32 0) 0x004 1 []).host = ⟨false, .write 0x004 1⟩ :: [] ∧
      (writing (bits 32 0) 0x00C 0x02000020 [⟨true, .powerOnReset⟩]).host =
        ⟨false, .write 0x00C 0x02000020⟩ :: ⟨true, .powerOnReset⟩ :: [] ∧ busOffset 0x00C = 0x00C :=
  ⟨sound_bits, .inr ⟨_, _, rfl, by decide, by decide⟩, .inl rfl, waits_nil, rfl, rfl, by decide⟩
theorem test_met_RunNeverStops : StatusInv State.reset := by unfold StatusInv; decide +kernel
/-- The ends of the writable windows, the registers, and offsets whose writes are ignored. -/
theorem test_met_HostAccessEffects :
    Spec.Sound (writing State.reset 0x010 5 []) ∧ State.reset.host = [] ∧
      (∀ off ∈ [0x10000, 0x3FFFC, 0x40000, 0x45FFC, 0x7DFFC], Spec.RamWindow off) ∧
      ((0 : Word).getLsbD 0 = false) ∧
      ∀ off ∈ [0x000, 0x01C, 0x0FFFC, 0x46000, 0x7E000, 0x80000, 0x90000],
        ¬Spec.RamWindow off ∧ off ∉ [0x004, 0x008, 0x00C, 0x010, 0x014, 0x018] :=
  ⟨sound_reset, rfl, by unfold Spec.RamWindow; decide, by decide, by unfold Spec.RamWindow; decide⟩
theorem test_met_ErrorLock :
    let s : Machine.State := { State.reset with err := 6 }
    Spec.Sound (writing s 0x00C 0x3F000000 []) ∧ s.err ≠ 0 ∧ Spec.Waits [] ∧ (0x3F000000 : Word) ≠ 0x3D000000#32 :=
  ⟨by unfold Spec.Sound; decide +kernel, by decide, waits_nil, by decide⟩
/-- A word that is no command, and BR_READ with an empty window. -/
theorem test_met_ErrorsArePrecise :
    (∀ w ∈ [(0x07000000 : Word), 0x02000001], let s := writing State.reset 0x00C w []
      Spec.Sound s ∧ s.err = 0 ∧ step s = .next (stepped s) ∧ (stepped s).err ≠ 0) ∧ Spec.Waits [] := by
  refine ⟨fun w h => ?_, waits_nil⟩
  simp only [List.mem_cons, List.not_mem_nil, or_false] at h
  rcases h with rfl | rfl
  all_goals exact ⟨sound_reset, rfl, stepped_eq (by decide +kernel), by decide +kernel⟩
theorem test_met_NotReadyBeforeCfg :
    State.reset.err = 0 ∧ State.reset.configured = false ∧ Spec.needsCfg .outEmit = true := by decide
theorem test_met_ChannelAndGroupErrors : Spec.Ready (stream 1 256 2) ∧ Spec.channelOf (.dequant 1) = some 1 ∧
    (stream 1 256 2).cfgNch.toNat ≤ (1 : BitVec 3).toNat ∧ Spec.groupOf (.mxRot 7) = some 7 ∧
    ((stream 1 256 2).group 7).size = 0 := by unfold Spec.Ready; decide +kernel

theorem frame_ready : Spec.Ready (frame 2 ms45) := by unfold Spec.Ready; decide +kernel

theorem frame_bandsOk : Spec.BandsOk (frame 2 ms45) := by unfold Spec.BandsOk; decide +kernel

theorem test_met_NoCommandWritesHostSide : exec .outEmit (stream 2 128 1) = .next (next .outEmit (stream 2 128 1)) :=
  next_eq (by decide +kernel)
/-- For each clause a command that changes the register it is about. -/
theorem test_met_OnlyTheirCommandsWriteRegisters :
    (next (.brRead 4) (bits 32 0)).res0 ≠ (bits 32 0).res0 ∧
    (next (.brVlc 0) (table0 2 3 0x80 2)).res1 ≠ (table0 2 3 0x80 2).res1 ∧
    (next .brInit (args State.reset 1 1 0)).brStart ≠ State.reset.brStart ∧
    (next (.brSkip 4) (bits 32 0)).brPos ≠ (bits 32 0).brPos ∧
    (next .cfg (args State.reset 2 256 2)).cfgNch ≠ State.reset.cfgNch ∧
    (next .remapSet (args State.reset 0x453120 0 0)).remap6 ≠ State.reset.remap6 ∧
    (next (.subSet 1) (args (stream 2 256 2) 256 0 0)).subN ≠ (stream 2 256 2).subN ∧
    (next .qsSet (args (stream 2 256 2) 5 0 0)).qstep ≠ (stream 2 256 2).qstep ∧
    (next (.sfbSet 32) (args (stream 2 256 2) 5 0 0)).sfb ≠ (stream 2 256 2).sfb ∧
    ((next (.window 0) dq1).channel 0).prevLen ≠ (dq1.channel 0).prevLen ∧
    ((next (.chQset 1) (args (stream 2 256 2) 5 0 0)).channel 1).qmod ≠ ((stream 2 256 2).channel 1).qmod ∧
    ((next (.sfSet 1 31) (args (stream 2 256 2) 5 0 0)).channel 1).sf ≠ ((stream 2 256 2).channel 1).sf ∧
    ((next (.grpSet 7) (args (stream 2 256 2) 0x10 2 1)).group 7).ch ≠ ((stream 2 256 2).group 7).ch ∧
    ((next (.mxSigns 0 3) (frame 2 ms45)).group 0).sgn ≠ ((frame 2 ms45).group 0).sgn ∧
    ((next (.mxAng 0 0 16) (frame 2 ms45)).group 0).ang ≠ ((frame 2 ms45).group 0).ang ∧
    ((next (.mxIdent 0) (frame 2 ms45)).group 0).mat ≠ ((frame 2 ms45).group 0).mat ∧
    (next (.vlcBegin 15 1) State.reset).table 15 ≠ State.reset.table 15 ∧
    (next (.vlcAdd 0) (args (table0 1 2 0 0) 7 0x00050003 0)).vlcRam ≠ (table0 1 2 0 0).vlcRam := by decide +kernel
/-- MX_APPLY changes a byte of COEF; PCM_ZERO one of PCM and OUT_EMIT one of OUT, where PCM[0][0] and PCM[0][128] are
+1.0. -/
theorem test_met_OnlyTheirCommandsWriteRams :
    let s : Machine.State := { frame 2 ms45 with
      mem := writeWords (writeWords [] (pcmAddr 0 0) [0x3F800000]) (pcmAddr 0 128) [0x3F800000], arg1 := 1 }
    ConfigInv (frame 2 ms45) ∧ GroupInv (frame 2 ms45) ∧ ConfigInv s ∧ GroupInv s ∧
      exec (.mxApply 0) (frame 2 ms45) = .next (next (.mxApply 0) (frame 2 ms45)) ∧
      ¬Spec.SameByte (frame 2 ms45) (next (.mxApply 0) (frame 2 ms45)) 0x20002 ∧
      exec (.pcmZero 0) s = .next (next (.pcmZero 0) s) ∧ ¬Spec.SameByte s (next (.pcmZero 0) s) 0x40202 ∧
      exec .outEmit s = .next (next .outEmit s) ∧ ¬Spec.SameByte s (next .outEmit s) 0x80000 := by
  unfold Spec.SameByte
  exact ⟨frame_configInv, frame_groupInv, frame_configInv, frame_groupInv, next_eq (by decide +kernel),
    by decide +kernel, next_eq (by decide +kernel), by decide +kernel, next_eq (by decide +kernel), by decide +kernel⟩
/-- The last legal window and the first illegal one. -/
theorem test_met_BrInitSetsWindow : State.reset.err = 0 ∧
    (let s := args State.reset 524287 1 0; s.arg0.toNat + s.arg1.toNat ≤ 524288) ∧
    (let s := args State.reset 524287 2 0; 524288 < s.arg0.toNat + s.arg1.toNat) := by decide
/-- n = 32 with exactly 32 bits left, n = 32 with 31, and n = 33. -/
theorem test_met_ReadAndPeekReturnTheNextBits : (bits 32 0).err = 0 ∧ 32 ≤ 32 ∧
    (bits 32 0).brPos.toNat + 32 ≤ (bits 32 0).brLen.toNat ∧
    (bits 31 0).brLen.toNat < (bits 31 0).brPos.toNat + 32 ∧ 32 < 33 := by decide
theorem test_met_SkipMovesTheCursor : (bits 16 4).err = 0 ∧
    (bits 16 4).brPos.toNat + 12 ≤ (bits 16 4).brLen.toNat ∧
    (bits 16 4).brLen.toNat < (bits 16 4).brPos.toNat + 13 ∧ 1048575 < 2 ^ 20 ∧ BitReaderInv (bits 16 16) := by
  unfold BitReaderInv; decide
theorem test_met_TellReturnsTheCursor : (bits 40 7).err = 0 := by decide
theorem test_met_ReadLaws : (bits 32 0).err = 0 ∧ 4 + 28 ≤ 32 ∧
    (bits 32 0).brPos.toNat + 4 + 28 ≤ (bits 32 0).brLen.toNat ∧
    (bits 32 0).brPos.toNat + 32 ≤ (bits 32 0).brLen.toNat := by decide
/-- Memory changed in the byte just past a window of 8 bits. -/
theorem test_met_BitReaderReadsOnlyTheWindow :
    Spec.isBitCommand (.brRead 8) = true ∧
    (∀ p, p < (bits 8 0).brLen.toNat →
      Spec.bit (bits 8 0) p = Spec.bit { bits 8 0 with mem := writeBytes [] 0x10000 [0xA5, 0x77] } p) ∧
    exec (.brRead 8) (bits 8 0) = .next (next (.brRead 8) (bits 8 0)) := by
  unfold Spec.bit
  exact ⟨rfl, by decide +kernel, next_eq (by decide +kernel)⟩
theorem test_met_VlcBeginStartsATable : State.reset.err = 0 ∧ (1 ≤ 1 ∧ 1 ≤ 32) ∧ (1 ≤ 32 ∧ 32 ≤ 32) ∧ 0 < 1 ∧ 32 < 33 := by
  decide
/-- The last entry a table of 512 takes, a VALID table, and each way an entry is bad. -/
theorem test_met_VlcAddAppendsAnEntry :
    (let s := args (table0 1 511 0 0) 7 0x00050003 0
     s.err = 0 ∧ (s.table 0).state = 1 ∧ 1 ≤ s.arg1.toNat % 64 ∧ s.arg1.toNat % 64 ≤ (s.table 0).maxlen.toNat ∧
       s.arg0.toNat < 2 ^ (s.arg1.toNat % 64) ∧ (s.table 0).count.toNat < 512) ∧
    ((table0 2 3 0 0).table 0).state ≠ 1 ∧
    (let s := args (table0 1 0 0 0) 0 0 0; s.arg1.toNat % 64 < 1) ∧
    (let s := args (table0 1 0 0 0) 0 4 0; (s.table 0).maxlen.toNat < s.arg1.toNat % 64) ∧
    (let s := args (table0 1 0 0 0) 4 2 0; 2 ^ (s.arg1.toNat % 64) ≤ s.arg0.toNat) ∧
    ((table0 1 512 0 0).table 0).count.toNat = 512 := by decide +kernel

theorem table0_prefixFree (state : BitVec 2) (byte : Byte) (len : BitVec 20) :
    PrefixFreeTable (table0 state 3 byte len) 0 := by
  have h : ∀ e, e < 3 → ∀ f, f < 3 → e ≠ f →
      ((table0 0 3 0 0).vlcEntry 0 e).len.toNat ≤ ((table0 0 3 0 0).vlcEntry 0 f).len.toNat →
      ((table0 0 3 0 0).vlcEntry 0 f).code.toNat >>> (((table0 0 3 0 0).vlcEntry 0 f).len.toNat -
        ((table0 0 3 0 0).vlcEntry 0 e).len.toNat) ≠ ((table0 0 3 0 0).vlcEntry 0 e).code.toNat := by decide +kernel
  exact fun e f he hf => h e he f hf

/-- Table 0 of the vectors; the same table empty; VLC-20's equal codes; a VALID table. -/
theorem test_met_VlcEndChecksPrefixFreedom :
    (((table0 1 3 0 0).table 0).state = 1 ∧ ((table0 1 3 0 0).table 0).count ≠ 0 ∧
      PrefixFreeTable (table0 1 3 0 0) 0) ∧
    ((table0 1 0 0 0).table 0).count = 0 ∧
    (let s : Machine.State := { table0 1 2 0 0 with vlcRam := [(0, { code := 1, len := 2, sym := 5 }),
       (1, { code := 1, len := 2, sym := 6 })] }
     s.err = 0 ∧ (s.table 0).state = 1 ∧ ¬PrefixFreeTable s 0) ∧
    ((table0 2 3 0 0).table 0).state ≠ 1 := by
  refine ⟨⟨by decide +kernel, by decide +kernel, table0_prefixFree _ _ _⟩, by decide +kernel,
    ⟨rfl, by decide +kernel, fun h => ?_⟩, by decide +kernel⟩
  exact h 0 1 (by decide +kernel) (by decide +kernel) (by decide) (by decide +kernel) (by decide +kernel)
/-- VLC-6 (entry 1 matches with fewer than MAXLEN bits left), VLC-5, VLC-4, and a BUILDING table. -/
theorem test_met_BrVlcDecodesTheMatchingCode :
    (let s := table0 2 3 0x80 2
     s.err = 0 ∧ (s.table 0).state = 2 ∧ PrefixFreeTable s 0 ∧ 1 < (s.table 0).count.toNat ∧
       1 ≤ (s.vlcEntry 0 1).len.toNat ∧ (s.vlcEntry 0 1).len.toNat ≤ (s.table 0).maxlen.toNat ∧
       (s.vlcEntry 0 1).len.toNat ≤ Spec.bitsLeft s ∧ Spec.CodeMatches s (s.vlcEntry 0 1)) ∧
    (∀ s ∈ [table0 2 3 0xC0 2, table0 2 3 0xE0 3], (s.table 0).state = 2 ∧
      ∀ e, e < (s.table 0).count.toNat → 1 ≤ (s.vlcEntry 0 e).len.toNat →
        (s.vlcEntry 0 e).len.toNat ≤ (s.table 0).maxlen.toNat →
        (s.vlcEntry 0 e).len.toNat ≤ Spec.bitsLeft s → ¬Spec.CodeMatches s (s.vlcEntry 0 e)) ∧
    Spec.bitsLeft (table0 2 3 0xC0 2) < ((table0 2 3 0xC0 2).table 0).maxlen.toNat ∧
    ((table0 2 3 0xE0 3).table 0).maxlen.toNat ≤ Spec.bitsLeft (table0 2 3 0xE0 3) ∧
    ((table0 1 3 0 0).table 0).state ≠ 2 := by
  unfold Spec.CodeMatches Spec.IsBits Spec.bit Spec.bitsLeft
  exact ⟨⟨rfl, by decide +kernel, table0_prefixFree _ _ _, by decide +kernel⟩, by decide +kernel,
    by decide +kernel, by decide +kernel, by decide +kernel⟩
theorem test_met_NopAndErrClr : State.reset.err = 0 ∧ { State.reset with err := 6 }.err ≠ 0 ∧
    Instr.nop ≠ .errClr := by decide
/-- The smallest and the largest configuration of R132, and one that is illegal. -/
theorem test_met_CfgStartsAStream : State.reset.err = 0 ∧
    (let s := args State.reset 8 4096 32; Spec.LegalCfg s.arg0.toNat s.arg1.toNat s.arg2.toNat) ∧
    (let s := args State.reset 1 128 1; Spec.LegalCfg s.arg0.toNat s.arg1.toNat s.arg2.toNat) ∧
    (let s := args State.reset 1 256 4; ¬Spec.LegalCfg s.arg0.toNat s.arg1.toNat s.arg2.toNat) := by
  refine ⟨rfl, ⟨by decide, by decide, ⟨12, rfl⟩, by decide, by decide, ⟨5, rfl⟩, by decide⟩,
    ⟨by decide, by decide, ⟨7, rfl⟩, by decide, by decide, ⟨0, rfl⟩, by decide⟩,
    fun h => absurd h.2.2.2.2.2.2 (by decide)⟩
/-- CTX-21 and CTX-22. -/
theorem test_met_RemapSetTakesPermutations : State.reset.err = 0 ∧
    (let s := args State.reset 0x00453120 0 0; ∀ k, k < 6 → ∃ j, j < 6 ∧ Spec.argMember s j = k) ∧
    (let s := args State.reset 0x00543211 0 0; ∃ k, k < 6 ∧ ∀ j, j < 6 → Spec.argMember s j ≠ k) := by
  unfold Spec.argMember
  exact ⟨rfl, by decide +kernel, 0, by decide +kernel⟩
/-- CTX-6, with NB = 32; NB = 0 and 33; CTX-8's 127 and CTX-9's end past the frame. -/
theorem test_met_SubSetChecksTheSubframe :
    let s := stream 2 2048 16
    Spec.Ready s ∧ (1 ≤ 32 ∧ 32 ≤ 32) ∧ 0 < 1 ∧ 32 < 33 ∧
    (Spec.Pow2 128 ∧ s.cfgSpf.toNat / s.cfgMaxsub.toNat ≤ 128 ∧ 128 ≤ s.cfgSpf.toNat ∧ 1920 + 128 ≤ s.cfgSpf.toNat) ∧
    ¬(s.cfgSpf.toNat / s.cfgMaxsub.toNat ≤ 127) ∧ ¬(1536 + 1024 ≤ s.cfgSpf.toNat) := by
  unfold Spec.Ready Spec.Pow2
  exact ⟨by decide +kernel, by decide, by decide, by decide, ⟨⟨7, rfl⟩, by decide +kernel⟩, by decide +kernel,
    by decide +kernel⟩
/-- The last legal boundary and index, the first illegal ones, and the ends of the range of QSTEP. -/
theorem test_met_SfbSetAndQsSetStore : Spec.Ready (stream 2 256 2) ∧ (32 ≤ 32 ∧ (4096 : Word).toNat ≤ 4096) ∧
    32 < 33 ∧ 4096 < (4097 : Word).toNat ∧ -32768 ≤ (0xFFFF8000 : Word).toInt ∧ (32767 : Word).toInt ≤ 32767 ∧
    (0xFFFF7FFF : Word).toInt < -32768 ∧ 32767 < (32768 : Word).toInt := by unfold Spec.Ready; decide +kernel
/-- The ends of the ranges of R139, R140 and R142. -/
theorem test_met_ChannelRegistersStore : Spec.Ready (stream 2 2048 16) ∧
    (1 : BitVec 3).toNat < (stream 2 2048 16).cfgNch.toNat ∧
    (stream 2 2048 16).cfgNch.toNat ≤ (2 : BitVec 3).toNat ∧
    (-32768 ≤ (0xFFFF8000 : Word).toInt ∧ (32767 : Word).toInt ≤ 32767 ∧ (255 : Word).toNat ≤ 255) ∧
    (¬(32768 : Word).toInt ≤ 32767 ∧ 255 < (256 : Word).toNat) ∧
    (Spec.Pow2 2048 ∧ 128 ≤ 2048 ∧ 2048 ≤ (stream 2 2048 16).cfgSpf.toNat) ∧
    ¬4096 ≤ (stream 2 2048 16).cfgSpf.toNat := by
  unfold Spec.Ready Spec.Pow2
  exact ⟨by decide +kernel, by decide +kernel, by decide +kernel, by decide, by decide, ⟨⟨11, rfl⟩, by decide +kernel⟩, by decide +kernel⟩
theorem test_met_CoefClrZeroesTheChannel : Spec.Ready (stream 2 256 2) ∧
    (1 : BitVec 3).toNat < (stream 2 256 2).cfgNch.toNat ∧
    (stream 2 256 2).cfgNch.toNat ≤ (2 : BitVec 3).toNat := by unfold Spec.Ready; decide +kernel
/-- MX-2's operands, and MX-8's three. -/
theorem test_met_GrpSetDefinesTheGroup : Spec.Ready (stream 2 256 2) ∧
    (let s := args (stream 2 256 2) 0x10 0x102 1; Spec.LegalGroup s (s.arg1.toNat % 16)) ∧
    (let s := args (stream 3 256 2) 0x210 0x103 0; ¬Spec.LegalGroup s (s.arg1.toNat % 16)) ∧
    (let s := args (stream 3 256 2) 0x30 0x2 0; ¬Spec.LegalGroup s (s.arg1.toNat % 16)) := by
  unfold Spec.Ready Spec.LegalGroup Spec.argMember
  refine ⟨by decide +kernel, ⟨by decide, by decide +kernel, by decide +kernel, ?_, by decide⟩,
    fun h => absurd (h.2.2.2.2 (by decide)) (by decide),
    fun h => absurd (h.2.2.1 1 (by decide)) (by decide +kernel)⟩
  · have h : ∀ k, k < 2 → ∀ l, l < 2 → l < k →
        (args (stream 2 256 2) 0x10 0x102 1).arg0.toNat / 2 ^ (4 * k) % 16 ≠
          (args (stream 2 256 2) 0x10 0x102 1).arg0.toNat / 2 ^ (4 * l) % 16 := by decide +kernel
    exact fun k l hk hl => h k hk l (Nat.lt_trans hl hk) hl
/-- A group of two; MX-7's group of three; MX-18's group of one. -/
theorem test_met_FixedMatrices : Spec.Ready (frame 2 ms45) ∧ ((frame 2 ms45).group 0).size ≠ 0 ∧
    ((frame 2 ms45).group 0).count = 2 ∧
    (let s := (stream 3 256 2).setGroup 0 { Group.reset with ch := 0x210, size := 3 }
     Spec.Ready s ∧ (s.group 0).size ≠ 0 ∧ (s.group 0).count ≠ 2) ∧
    ((frame 2 ms45).group 1).size = 0 := by unfold Spec.Ready; decide +kernel
/-- For a group of two: the last legal row, column, angle and sign, and the first illegal ones. -/
theorem test_met_MatrixOperandsStore :
    let n := ((frame 2 ms45).group 0).count
    Spec.Ready (frame 2 ms45) ∧ ((frame 2 ms45).group 0).size ≠ 0 ∧ n ≤ 8 ∧
    (1 : BitVec 3).toNat < n ∧ n ≤ (2 : BitVec 3).toNat ∧
    2 * (0 : BitVec 5).toNat < n * (n - 1) ∧ n * (n - 1) ≤ 2 * (1 : BitVec 5).toNat ∧
    ((frame 2 ms45).group 1).size = 0 ∧
    (∀ b, n ≤ b → (3 : BitVec 8).getLsbD b = false) ∧ ∃ b, n ≤ b ∧ (4 : BitVec 8).getLsbD b = true := by
  have hn : ((frame 2 ms45).group 0).count = 2 := by decide +kernel
  simp only [hn]
  refine ⟨frame_ready, by decide +kernel, by decide, by decide, by decide, by decide, by decide,
    by decide +kernel, fun b hb => ?_,
    2, by decide, by decide⟩
  by_cases h : b < 8
  · have : ∀ b, b < 8 → 2 ≤ b → (3 : BitVec 8).getLsbD b = false := by decide
    exact this b h hb
  · exact BitVec.getLsbD_of_ge _ _ (by omega)
theorem test_met_MxRotComposesRotations : 32 ≤ 32 ∧ Spec.Ready (frame 2 ms45) ∧ ((frame 2 ms45).group 0).size ≠ 0 ∧
    ((frame 2 ms45).group 0).count ≤ 8 ∧ ((frame 2 ms45).group 1).size = 0 := by unfold Spec.Ready; decide +kernel
/-- Both bands have positions, and the mask treats them differently. -/
theorem test_met_MxApplyMixesEveryBand : Spec.Ready (frame 2 ms45) ∧ ConfigInv (frame 2 ms45) ∧
    GroupInv (frame 2 ms45) ∧ ((frame 2 ms45).group 0).size ≠ 0 ∧ (frame 2 ms45).subValid = true ∧
    Spec.BandsOk (frame 2 ms45) ∧ 1 < (frame 2 ms45).subNb.toNat ∧
    (frame 2 ms45).bound 0 ≤ 0 ∧ 0 < (frame 2 ms45).bound 1 ∧ 2 < (frame 2 ms45).bound 2 :=
  ⟨frame_ready, frame_configInv, frame_groupInv, by decide +kernel, rfl, frame_bandsOk, by decide +kernel⟩
/-- The errors of MX_APPLY: group 1 is not set; no subframe; a boundary one past SUB_N. -/
theorem test_met_MxApplyErrors :
    let bad : Machine.State := { frame 2 ms45 with sfb := (frame 2 ms45).sfb.set 2 257 }
    ((frame 2 ms45).group 1).size = 0 ∧ Spec.Ready { frame 2 ms45 with subValid := false } ∧
    (Spec.Ready bad ∧ bad.subValid = true ∧ ¬Spec.BandsOk bad ∧ (bad.group 0).size ≠ 0) := by
  unfold Spec.Ready Spec.BandsOk; decide +kernel

theorem dq1_ready : Spec.Ready dq1 := by unfold Spec.Ready; decide +kernel

/-- The errors of DEQUANT, and of the others that check the channel and the subframe. -/
theorem test_met_DequantErrors :
    let bad : Machine.State := { dq1 with sfb := dq1.sfb.set 2 129 }
    let low : Machine.State := { dq1 with qstep := -1 }
    dq1.cfgNch.toNat ≤ (1 : BitVec 3).toNat ∧ Spec.Ready { dq1 with subValid := false } ∧
    (Spec.Ready bad ∧ bad.subValid = true ∧ ¬Spec.BandsOk bad) ∧
    (Spec.Ready low ∧ low.subValid = true ∧ Spec.BandsOk low ∧ low.qstep.toInt + (low.channel 0).qmod.toInt < 0) := by
  unfold Spec.Ready Spec.BandsOk; decide +kernel
theorem test_met_DequantScalesEveryBand : Spec.Ready dq1 ∧ ConfigInv dq1 ∧ (0 : BitVec 3).toNat < dq1.cfgNch.toNat ∧
    dq1.subValid = true ∧ Spec.BandsOk dq1 ∧ 0 ≤ dq1.qstep.toInt + (dq1.channel 0).qmod.toInt ∧
    3 < dq1.bound dq1.subNb.toNat ∧ dq1.bound dq1.subNb.toNat < dq1.subN.toNat :=
  ⟨dq1_ready, dq1_configInv, by decide +kernel, rfl, by unfold Spec.BandsOk; decide +kernel, by decide +kernel,
    by decide +kernel, by decide +kernel⟩
/-- A block with samples, and one whose inputs are all +0.0. -/
theorem test_met_ImdctWritesTheBlock : Spec.Ready dq1 ∧ ConfigInv dq1 ∧ (0 : BitVec 3).toNat < dq1.cfgNch.toNat ∧
    dq1.subValid = true ∧ 127 < dq1.subN.toNat ∧
    (let s : Machine.State := { dq1 with mem := [] }
     Spec.Ready s ∧ ConfigInv s ∧ ∀ k, k < s.subN.toNat → coef s.mem 0 k = 0 ∨ coef s.mem 0 k = 0x80000000#32) :=
  ⟨dq1_ready, dq1_configInv, by decide +kernel, rfl, by decide +kernel, dq1_ready, dq1_configInv,
    fun _ _ => .inl (show bytesWord 0 0 0 0 = 0 by decide)⟩
theorem test_met_ImdctRepeatsAndCommutes : ConfigInv (frame 2 ms45) ∧
    exec (.imdct 0) (frame 2 ms45) = .next (next (.imdct 0) (frame 2 ms45)) ∧ (0 : BitVec 3) ≠ 1 ∧
    Spec.Ready (frame 2 ms45) ∧ (frame 2 ms45).subValid = true ∧
    (0 : BitVec 3).toNat < (frame 2 ms45).cfgNch.toNat ∧ (1 : BitVec 3).toNat < (frame 2 ms45).cfgNch.toNat :=
  ⟨frame_configInv, next_eq (by decide +kernel), by decide, frame_ready, rfl, by decide +kernel, by decide +kernel⟩
theorem test_met_WindowCrossFades : (5 ≤ 5 ∧ 4095 < 128 * 2 ^ 5) ∧ Spec.Ready dq1 ∧ ConfigInv dq1 ∧ (0 : BitVec 3).toNat < dq1.cfgNch.toNat ∧
    dq1.subValid = true ∧ 63 < min (dq1.channel 0).prevLen.toNat dq1.subN.toNat / 2 :=
  ⟨by decide, dq1_ready, dq1_configInv, by decide +kernel, rfl, by decide +kernel⟩
/-- WN-8's range, which ends with the frame, and WN-9's, one sample longer. -/
theorem test_met_PcmZeroClearsTheRange : Spec.Ready (stream 1 2048 1) ∧
    (0 : BitVec 3).toNat < (stream 1 2048 1).cfgNch.toNat ∧ (stream 1 2048 1).cfgNch.toNat ≤ (1 : BitVec 3).toNat ∧
    (let s := args (stream 1 2048 1) 1024 1024 0; s.arg0.toNat + s.arg1.toNat ≤ s.cfgSpf.toNat) ∧
    (let s := args (stream 1 2048 1) 1024 1025 0; s.cfgSpf.toNat < s.arg0.toNat + s.arg1.toNat) := by
  unfold Spec.Ready; decide +kernel
theorem test_met_OutEmitEmitsAndShifts : Spec.Ready (frame 2 ms45) ∧ ConfigInv (frame 2 ms45) :=
  ⟨frame_ready, frame_configInv⟩
/-- DQ-1's context with every RAM silent. -/
theorem test_met_SilenceStaysSilent :
    let s : Machine.State := { dq1 with mem := [] }
    Spec.Ready s ∧ ConfigInv s ∧ (0 : BitVec 3).toNat < s.cfgNch.toNat ∧ s.subValid = true ∧ Spec.BandsOk s ∧
      0 ≤ s.qstep.toInt + (s.channel 0).qmod.toInt ∧
      (∀ b, b < s.subNb.toNat → Spec.Finite (gain (Spec.bandExponent s 0 b))) ∧
      (∀ y, Spec.Zero (coef s.mem 0 y)) ∧ ∀ d i, Spec.Zero (pcm s.mem d i) :=
  ⟨dq1_ready, dq1_configInv, by decide +kernel, rfl, by unfold Spec.BandsOk; decide +kernel, by decide +kernel,
    by unfold Spec.Finite; decide +kernel, fun _ => .inl (show bytesWord 0 0 0 0 = 0 by decide),
    fun _ _ => .inl (show bytesWord 0 0 0 0 = 0 by decide)⟩
/-- A NaN, and finite values with a tie and past both ends of the range. -/
theorem test_met_Clip16RoundsAndSaturates : isNaN 0x7FC00001#32 = true ∧ Spec.Finite 0x3F000000#32 ∧
    Spec.Finite 0x4788B800#32 ∧ Spec.Finite 0xFF7FFFFF#32 := by unfold Spec.Finite; decide +kernel
/-- An exact zero, an overflow, a sum that is neither, and the two infinities. -/
theorem test_met_FaddRoundsToNearest :
    Spec.Finite 0x7F7FFFFF#32 ∧ Spec.Finite 0xBF800000#32 ∧ Spec.Finite 0x00000001#32 ∧
    toUnits 0x3F800000#32 + toUnits 0xBF800000#32 = 0 ∧
    Spec.Overflows (toUnits 0x7F7FFFFF#32 + toUnits 0x7F7FFFFF#32) 0 ∧
    (toUnits 0x3F800000#32 + toUnits 0x00000001#32 ≠ 0 ∧
      ¬Spec.Overflows (toUnits 0x3F800000#32 + toUnits 0x00000001#32) 0) ∧
    Spec.Infinite 0x7F800000#32 ∧ Spec.Infinite 0xFF800000#32 ∧ 0x7F800000#32 ≠ 0xFF800000#32 := by
  unfold Spec.Finite Spec.Overflows Spec.Infinite; decide +kernel
theorem test_met_FmulRoundsToNearest :
    Spec.Finite 0x7F7FFFFF#32 ∧ Spec.Finite 0x00000001#32 ∧
    Spec.Overflows (toUnits 0x7F7FFFFF#32 * toUnits 0x40000000#32) 149 ∧
    ¬Spec.Overflows (toUnits 0x7F7FFFFF#32 * toUnits 0x00000001#32) 149 ∧
    (Spec.Infinite 0xFF800000#32 ∧ Spec.Finite 0x00000001#32 ∧ ¬Spec.Zero 0x00000001#32) ∧
    Spec.Zero 0x80000000#32 ∧ isNaN 0x7F800001#32 = true := by
  unfold Spec.Finite Spec.Overflows Spec.Infinite Spec.Zero; decide +kernel
theorem test_met_StepKeepsMemoryInv : let s := writing (frame 2 ms45) 0x00C 0x17000000 []
    MemoryInv s ∧ step s = .next (stepped s) :=
  ⟨by unfold MemoryInv; decide +kernel, stepped_eq (by decide +kernel)⟩
theorem test_met_StepKeepsBitReaderInv : let s := writing (bits 32 0) 0x00C 0x02000020 []
    BitReaderInv s ∧ step s = .next (stepped s) :=
  ⟨by unfold BitReaderInv; decide +kernel, stepped_eq (by decide +kernel)⟩
theorem test_met_StepKeepsVlcInv : let s := writing (table0 2 3 0 0) 0x00C 0x08000300 []
    VlcInv s ∧ step s = .next (stepped s) :=
  ⟨table0_vlcInv, stepped_eq (by decide +kernel)⟩
theorem test_met_StepKeepsConfigAndGroupInv : let s := writing (frame 2 ms45) 0x00C 0x16000000 []
    (ConfigInv s ∧ GroupInv s) ∧ step s = .next (stepped s) :=
  ⟨⟨frame_configInv, frame_groupInv⟩, stepped_eq (by decide +kernel)⟩
theorem test_met_StepKeepsExtentInv : let s := writing { frame 2 ms45 with mem := [(0x20000, 1)] } 0x00C 0x17000000 []
    ConfigInv s ∧ GroupInv s ∧ ExtentInv s ∧ step s = .next (stepped s) := by
  refine ⟨frame_configInv, frame_groupInv, fun a h => ?_, stepped_eq (by decide +kernel)⟩
  show (if 0x20000 = a then _ else _) = _
  split
  · subst a; exact absurd (by unfold InRam; decide) h
  · rfl

end Sys2Proof.Tests
end

section
/-! SUPPORT. Rounding to binary32 (R10, R11). The magnitudes of the binary32 values rise with their lower 31 bits, a value
rounds to the magnitude in whose cell between two midpoints it lies, and `roundMag` finds that cell; so `fadd`, `fmul`
and the numeric tables round to nearest, ties to even. -/

namespace Sys2Proof.Machine

/-! The magnitude of a binary32 as a function of its lower 31 bits. -/

/-- The magnitude, in units of 2^-149, that the lower bits `n` of a binary32 stand for, continued past infinity. -/
def lowMag (n : Nat) : Nat := if n < 2 ^ 23 then n else (2 ^ 23 + n % 2 ^ 23) * 2 ^ (n / 2 ^ 23 - 1)

/-- The lower 31 bits of a binary32. -/
def lowBits (x : F32) : Nat := x.toNat % 2 ^ 31

/-- Lower bits in the form the rounding gives them: the significand `q` and the exponent `e` of its unit. -/
theorem lowMag_scale {e q : Nat} (h : e = 0 ∨ 2 ^ 23 ≤ q) (hq : q ≤ 2 ^ 24) :
    lowMag (e * 2 ^ 23 + q) = q * 2 ^ e := by
  unfold lowMag
  split
  · have he : e = 0 := by omega
    simp [he]
  · rcases Nat.lt_or_ge q (2 ^ 24) with h' | h'
    · rw [show (e * 2 ^ 23 + q) / 2 ^ 23 - 1 = e by omega, show 2 ^ 23 + (e * 2 ^ 23 + q) % 2 ^ 23 = q by omega]
    · rw [show (e * 2 ^ 23 + q) / 2 ^ 23 - 1 = e + 1 by omega,
        show 2 ^ 23 + (e * 2 ^ 23 + q) % 2 ^ 23 = 2 ^ 23 by omega, show q = 2 ^ 23 * 2 by omega, Nat.pow_succ]
      ring

theorem exists_scale (n : Nat) : ∃ e q, (e = 0 ∨ 2 ^ 23 ≤ q) ∧ q < 2 ^ 24 ∧ n = e * 2 ^ 23 + q := by
  by_cases h : n < 2 ^ 23
  · exact ⟨0, n, .inl rfl, by omega, by omega⟩
  · exact ⟨n / 2 ^ 23 - 1, 2 ^ 23 + n % 2 ^ 23, .inr (by omega), by omega, by omega⟩

theorem lowMag_strictMono : StrictMono lowMag := by
  refine strictMono_nat_of_lt_succ fun n => ?_
  obtain ⟨e, q, h, hq, rfl⟩ := exists_scale n
  rw [lowMag_scale h (by omega), Nat.add_assoc, lowMag_scale (by omega) (by omega)]
  exact Nat.mul_lt_mul_of_pos_right (by omega) (by positivity)

@[simp] theorem lowMag_zero : lowMag 0 = 0 := rfl

theorem lowMag_eq_zero_iff (n : Nat) : lowMag n = 0 ↔ n = 0 := lowMag_strictMono.injective.eq_iff (b := 0)

/-- The next magnitude is at least one unit of the significand away. -/
theorem le_lowMag_succ {e q : Nat} (h : e = 0 ∨ 2 ^ 23 ≤ q) (hq : q ≤ 2 ^ 24) :
    (q + 1) * 2 ^ e ≤ lowMag (e * 2 ^ 23 + q + 1) := by
  rcases Nat.lt_or_ge q (2 ^ 24) with h' | h'
  · rw [Nat.add_assoc, lowMag_scale (by omega) (by omega)]
  · rw [show e * 2 ^ 23 + q + 1 = (e + 1) * 2 ^ 23 + (2 ^ 23 + 1) by omega, lowMag_scale (by omega) (by omega)]
    calc (q + 1) * 2 ^ e ≤ (2 ^ 23 + 1) * 2 * 2 ^ e := Nat.mul_le_mul_right _ (by omega)
      _ = (2 ^ 23 + 1) * 2 ^ (e + 1) := by ring

theorem lowMag_infBits : lowMag infBits = 2 ^ 24 * 2 ^ 253 :=
  lowMag_scale (e := 253) (q := 2 ^ 24) (.inr (by norm_num)) le_rfl

theorem lowMag_largest : lowMag (infBits - 1) = (2 ^ 24 - 1) * 2 ^ 253 :=
  lowMag_scale (e := 253) (q := 2 ^ 24 - 1) (.inr (by norm_num)) (by norm_num)

/-! The fields of a binary32. -/

theorem expField_eq (x : F32) : expField x = lowBits x / 2 ^ 23 := by
  unfold expField lowBits
  simp only [BitVec.extractLsb'_toNat, Nat.shiftRight_eq_div_pow]
  omega

theorem fracField_eq (x : F32) : fracField x = lowBits x % 2 ^ 23 := by
  unfold fracField lowBits
  simp only [BitVec.extractLsb'_toNat, Nat.shiftRight_zero]
  omega

theorem signBit_iff (x : F32) : signBit x = true ↔ 2 ^ 31 ≤ x.toNat := by
  have h := x.isLt
  simp only [signBit, BitVec.getLsbD, Nat.testBit_eq_decide_div_mod_eq, decide_eq_true_eq]
  omega

theorem mag_eq_lowMag (x : F32) : mag x = lowMag (lowBits x) := by
  unfold mag lowMag
  rw [expField_eq, fracField_eq]
  by_cases h : lowBits x < 2 ^ 23
  · rw [if_pos (by omega), if_pos h, Nat.mod_eq_of_lt h]
  · rw [if_neg (by omega), if_neg h]

theorem finite_iff (x : F32) : Spec.Finite x ↔ lowBits x < infBits := by
  rw [Spec.Finite, expField_eq, infBits]; omega

theorem ofNat_toNat_of_lt {n : Nat} (h : n < 2 ^ 32) : (BitVec.ofNat 32 n).toNat = n := by
  rw [BitVec.toNat_ofNat, Nat.mod_eq_of_lt h]

theorem magOf_eq_lowMag {n : Nat} (h : n < 2 ^ 31) : Spec.magOf n = lowMag n := by
  rw [Spec.magOf, mag_eq_lowMag, lowBits, ofNat_toNat_of_lt (by omega), Nat.mod_eq_of_lt h]

/-! The binary32 with a given sign and given lower bits. -/

section

variable {neg : Bool} {n : Nat}

theorem toNat_withSign (h : n < 2 ^ 31) : (withSign neg n).toNat = (if neg then 2 ^ 31 else 0) + n := by
  cases neg <;> exact ofNat_toNat_of_lt (by norm_num; omega)

@[simp] theorem lowBits_withSign (h : n < 2 ^ 31) : lowBits (withSign neg n) = n := by
  rw [lowBits, toNat_withSign h]; cases neg <;> grind

@[simp] theorem signBit_withSign (h : n < 2 ^ 31) : signBit (withSign neg n) = neg := by
  rw [Bool.eq_iff_iff, signBit_iff, toNat_withSign h]; cases neg <;> grind

theorem lsb_withSign (h : n < 2 ^ 31) (he : n % 2 = 0) : (withSign neg n).getLsbD 0 = false := by
  rw [BitVec.getLsbD, toNat_withSign h, Nat.testBit_zero]; cases neg <;> grind

theorem toUnits_withSign (h : n < 2 ^ 31) :
    toUnits (withSign neg n) = if neg then -(lowMag n : Int) else lowMag n := by
  rw [toUnits, signBit_withSign h, mag_eq_lowMag, lowBits_withSign h]

theorem finite_withSign (h : n < infBits) : Spec.Finite (withSign neg n) := by
  rw [finite_iff, lowBits_withSign (by unfold infBits at h; omega)]; exact h

end

/-! The cell of a magnitude: what rounds to it. -/

/-- `r` rounds to the magnitude with lower bits `R`: it lies between the midpoints to the two neighbours, and on a
midpoint only when `R` is even. -/
structure RoundCell (R : Nat) (r : ℝ) : Prop where
  lower : R ≠ 0 → (lowMag (R - 1) + lowMag R : ℝ) ≤ 2 * r
  lower_even : R ≠ 0 → (lowMag (R - 1) + lowMag R : ℝ) = 2 * r → R % 2 = 0
  upper : 2 * r ≤ (lowMag R + lowMag (R + 1) : ℝ)
  upper_even : 2 * r = (lowMag R + lowMag (R + 1) : ℝ) → R % 2 = 0

theorem lowMag_lt_real {m n : Nat} (h : m < n) : (lowMag m : ℝ) < lowMag n := by
  exact_mod_cast lowMag_strictMono h

theorem lowMag_le_real {m n : Nat} (h : m ≤ n) : (lowMag m : ℝ) ≤ lowMag n := by
  exact_mod_cast lowMag_strictMono.monotone h

/-- No value lies in two cells: a common midpoint belongs to the even one. -/
theorem RoundCell.unique {R S : Nat} {r : ℝ} (h : RoundCell R r) (h' : RoundCell S r) : R = S := by
  have key : ∀ {R S : Nat}, RoundCell R r → RoundCell S r → ¬R < S := by
    intro R S h h' hlt
    have a := lowMag_le_real (show R ≤ S - 1 by omega)
    have b := lowMag_le_real (show R + 1 ≤ S by omega)
    have c := h.upper
    have d := h'.lower (by omega)
    have e₁ := h.upper_even (by linarith)
    have e₂ := h'.lower_even (by omega) (by linarith)
    have : (lowMag (R + 1) : ℝ) < lowMag S := lowMag_lt_real (by omega)
    linarith
  have := key h h'
  have := key h' h
  omega

/-- The magnitude of the cell is nearest among the values on either side of it. -/
theorem RoundCell.nearest {R : Nat} {r z : ℝ} (h : RoundCell R r) (hr : 0 ≤ r)
    (hz : (lowMag (R + 1) : ℝ) ≤ z ∨ (R ≠ 0 ∧ z ≤ lowMag (R - 1)) ∨ (R = 0 ∧ z < 0)) :
    |lowMag R - r| < |z - r| ∨ (|lowMag R - r| = |z - r| ∧ R % 2 = 0) := by
  rcases hz with hz | ⟨h0, hz⟩ | ⟨h0, hz⟩
  · have a := lowMag_lt_real (Nat.lt_succ_self R)
    have b := h.upper
    rw [abs_of_nonneg (show 0 ≤ z - r by linarith)]
    rcases lt_or_ge |lowMag R - r| (z - r) with hlt | hge
    · exact .inl hlt
    · rcases le_abs'.1 hge with hc | hc
      · have e : 2 * r = lowMag R + lowMag (R + 1) := by linarith
        exact .inr ⟨by rw [abs_of_nonpos] <;> linarith, h.upper_even e⟩
      · linarith
  · have a := lowMag_lt_real (show R - 1 < R by omega)
    have b := h.lower h0
    rw [abs_of_nonpos (show z - r ≤ 0 by linarith)]
    rcases lt_or_ge |lowMag R - r| (-(z - r)) with hlt | hge
    · exact .inl hlt
    · rcases le_abs'.1 hge with hc | hc
      · linarith
      · have e : lowMag (R - 1) + lowMag R = 2 * r := by linarith
        exact .inr ⟨by rw [abs_of_nonneg] <;> linarith, h.lower_even h0 e⟩
  · left
    subst h0
    rw [lowMag_zero, Nat.cast_zero, zero_sub, abs_neg, abs_of_nonneg hr, abs_of_neg (by linarith)]
    linarith

/-- The bound of `Spec.Overflows` is the midpoint below infinity. -/
theorem RoundCell.infBits_le_iff {R : Nat} {r : ℝ} (h : RoundCell R r) :
    infBits ≤ R ↔ ((2 ^ 25 - 1) * 2 ^ 252 : ℝ) ≤ r := by
  have a : (lowMag infBits : ℝ) = 2 ^ 24 * 2 ^ 253 := by rw [lowMag_infBits]; norm_num
  have b : (lowMag (infBits - 1) : ℝ) = (2 ^ 24 - 1) * 2 ^ 253 := by rw [lowMag_largest]; norm_num
  constructor
  · intro hR
    have h₁ := h.lower (by unfold infBits at hR; omega)
    have h₂ := lowMag_le_real hR
    have h₃ := lowMag_le_real (show infBits - 1 ≤ R - 1 by omega)
    norm_num at a b ⊢
    linarith
  · intro hr
    by_contra hR
    have h₁ := h.upper
    have h₂ := lowMag_le_real (show R + 1 ≤ infBits by omega)
    have h₃ := lowMag_le_real (show R ≤ infBits - 1 by omega)
    have he := h.upper_even (by norm_num at a b hr; linarith)
    have : R ≠ infBits - 1 := by rintro rfl; exact absurd he (by decide)
    have h₄ := lowMag_lt_real (show R < infBits - 1 by omega)
    norm_num at a b hr
    linarith

/-- A significand `q` within half a unit of the value names its cell. At the least significand of an exponent the
neighbour below is only half a unit away, so there the value must not lie below. -/
theorem roundCell_scale {e q : Nat} {t : ℝ} (h : e = 0 ∨ 2 ^ 23 ≤ q) (hq : q ≤ 2 ^ 24)
    (hlo : (2 * (q * 2 ^ e) : ℝ) ≤ 2 * t + 2 ^ e) (hhi : 2 * t ≤ (2 * (q * 2 ^ e) + 2 ^ e : ℝ))
    (htie : (2 * (q * 2 ^ e) : ℝ) = 2 * t + 2 ^ e ∨ 2 * t = (2 * (q * 2 ^ e) + 2 ^ e : ℝ) → q % 2 = 0)
    (hleast : (q * 2 ^ e : ℝ) ≤ t ∨ e = 0 ∨ q ≠ 2 ^ 23) : RoundCell (e * 2 ^ 23 + q) t := by
  have hpar : (e * 2 ^ 23 + q) % 2 = q % 2 := by omega
  have hmag : (lowMag (e * 2 ^ 23 + q) : ℝ) = q * 2 ^ e := by exact_mod_cast lowMag_scale h hq
  have hup : ((q + 1) * 2 ^ e : ℝ) ≤ lowMag (e * 2 ^ 23 + q + 1) := by exact_mod_cast le_lowMag_succ h hq
  have below : e * 2 ^ 23 + q ≠ 0 → (lowMag (e * 2 ^ 23 + q - 1) + lowMag (e * 2 ^ 23 + q) : ℝ) < 2 * t ∨
      (lowMag (e * 2 ^ 23 + q - 1) : ℝ) = q * 2 ^ e - 2 ^ e := by
    intro h0
    rcases hleast with hge | hne
    · have := lowMag_lt_real (show e * 2 ^ 23 + q - 1 < e * 2 ^ 23 + q by omega)
      exact .inl (by linarith)
    · have hq0 : 1 ≤ q := by omega
      rw [Nat.add_sub_assoc hq0, lowMag_scale (by omega) (by omega)]
      push_cast [hq0]
      exact .inr (by ring)
  refine ⟨fun h0 => ?_, fun h0 h => ?_, by linarith, fun h => ?_⟩
  · rcases below h0 with hb | hb <;> linarith
  · rcases below h0 with hb | hb
    · linarith
    · rw [hpar]; exact htie (.inl (by linarith))
  · rw [hpar]; exact htie (.inr (by linarith))

/-! `roundMag` finds the cell. -/

/-- `roundMag` before the overflow to infinity is cut off. -/
def roundLow (n k : Nat) : Nat :=
  (max k (bitLength n - 24) - k) * 2 ^ 23 + roundShift n (max k (bitLength n - 24))

theorem roundMag_eq (n k : Nat) : roundMag n k = min infBits (roundLow n k) := rfl

theorem roundMag_lt (n k : Nat) : roundMag n k < 2 ^ 31 := by
  rw [roundMag_eq]; exact lt_of_le_of_lt (min_le_left _ _) (by decide)

theorem lt_two_pow_bitLength (n : Nat) : n < 2 ^ bitLength n := by
  unfold bitLength
  split
  · simp_all
  · exact Nat.lt_log2_self

theorem two_pow_le_of_lt_bitLength {n b : Nat} (h : b < bitLength n) : 2 ^ b ≤ n := by
  unfold bitLength at h
  split at h
  · omega
  · rename_i h0
    exact le_trans (Nat.pow_le_pow_right (by omega) (by omega)) (Nat.log2_self_le h0)

/-- `roundShift n d` is within half a unit of `n / 2^d`, and at half a unit it is even. -/
theorem roundShift_spec (n d : Nat) :
    2 * (roundShift n d * 2 ^ d) ≤ 2 * n + 2 ^ d ∧ 2 * n ≤ 2 * (roundShift n d * 2 ^ d) + 2 ^ d ∧
    (2 * (roundShift n d * 2 ^ d) = 2 * n + 2 ^ d ∨ 2 * n = 2 * (roundShift n d * 2 ^ d) + 2 ^ d →
      roundShift n d % 2 = 0) := by
  have hd : 0 < 2 ^ d := by positivity
  have hn := Nat.div_add_mod' n (2 ^ d)
  have hm := Nat.mod_lt n hd
  have hs := Nat.succ_mul (n / 2 ^ d) (2 ^ d)
  simp only [roundShift, Bool.or_eq_true, Bool.and_eq_true, decide_eq_true_eq]
  generalize n / 2 ^ d = q at *
  generalize n % 2 ^ d = r at *
  split
  · rw [← Nat.succ_eq_add_one, hs]
    generalize q * 2 ^ d = p at *
    omega
  · generalize q * 2 ^ d = p at *
    omega

/-- The significand and the exponent of `roundLow`: the exponent is 0 unless the value fills the significand. -/
theorem roundLow_scale (n k : Nat) : ∃ e, roundLow n k = e * 2 ^ 23 + roundShift n (e + k) ∧
    n < 2 ^ 24 * 2 ^ (e + k) ∧ (e = 0 ∨ 2 ^ 23 * 2 ^ (e + k) ≤ n) := by
  obtain ⟨e, hd⟩ : ∃ e, max k (bitLength n - 24) = e + k := ⟨_, (Nat.sub_add_cancel (le_max_left _ _)).symm⟩
  refine ⟨e, by rw [roundLow, hd, Nat.add_sub_cancel], ?_, ?_⟩
  · rw [← Nat.pow_add]
    exact lt_of_lt_of_le (lt_two_pow_bitLength n) (Nat.pow_le_pow_right (by omega) (by omega))
  · rcases Nat.eq_zero_or_pos e with h0 | h0
    · exact .inl h0
    · rw [← Nat.pow_add]
      exact .inr (two_pow_le_of_lt_bitLength (by omega))

/-- The significand of `roundLow` has the form `roundCell_scale` asks for. -/
theorem roundLow_significand (n k : Nat) : ∃ e q, roundLow n k = e * 2 ^ 23 + q ∧ q = roundShift n (e + k) ∧
    (e = 0 ∨ 2 ^ 23 ≤ q) ∧ q ≤ 2 ^ 24 ∧ (q * 2 ^ (e + k) ≤ n ∨ e = 0 ∨ q ≠ 2 ^ 23) := by
  obtain ⟨e, hR, hn, hfull⟩ := roundLow_scale n k
  obtain ⟨hlo, hhi, -⟩ := roundShift_spec n (e + k)
  refine ⟨e, _, hR, rfl, ?_⟩
  generalize roundShift n (e + k) = q at *
  refine ⟨hfull.imp_right fun hb => ?_, ?_, ?_⟩
  · by_contra hc
    have := Nat.mul_le_mul_right (2 ^ (e + k)) (show q + 1 ≤ 2 ^ 23 by omega)
    have hpow : 0 < 2 ^ (e + k) := by positivity
    rw [Nat.succ_mul] at this
    omega
  · by_contra hc
    have := Nat.mul_le_mul_right (2 ^ (e + k)) (show 2 ^ 24 + 1 ≤ q by omega)
    rw [Nat.succ_mul] at this
    omega
  · rcases hfull with h0 | hb
    · exact .inr (.inl h0)
    · by_cases hc : q = 2 ^ 23
      · exact .inl (hc ▸ hb)
      · exact .inr (.inr hc)

/-- Every value `n / 2^k` lies in the cell `roundLow` names. -/
theorem roundCell_roundLow (n k : Nat) : RoundCell (roundLow n k) (n / 2 ^ k) := by
  obtain ⟨e, q, hR, hq, hnorm, hle24, hleast⟩ := roundLow_significand n k
  obtain ⟨hlo, hhi, heven⟩ := roundShift_spec n (e + k)
  rw [hR]
  rw [← hq] at hlo hhi heven
  have hw : (0 : ℝ) < 2 ^ k := by positivity
  have hd : (q * 2 ^ e : ℝ) = (q * 2 ^ (e + k) : Nat) / 2 ^ k ∧ (2 ^ e : ℝ) = (2 ^ (e + k) : Nat) / 2 ^ k := by
    push_cast
    rw [pow_add]
    exact ⟨by field_simp, by field_simp⟩
  have hle : ∀ x y : Nat, x ≤ y ↔ (x / 2 ^ k : ℝ) ≤ y / 2 ^ k := fun x y => by
    rw [div_le_div_iff_of_pos_right hw, Nat.cast_le]
  have heq : ∀ x y : Nat, x = y ↔ (x / 2 ^ k : ℝ) = y / 2 ^ k := fun x y => by
    rw [div_left_inj' hw.ne', Nat.cast_inj]
  generalize q * 2 ^ (e + k) = a at hlo hhi heven hleast hd
  generalize 2 ^ (e + k) = b at hlo hhi heven hd
  simp only [hle, Nat.cast_add, Nat.cast_mul, Nat.cast_ofNat, add_div, mul_div_assoc, ← hd.1, ← hd.2]
    at hlo hhi hleast
  refine roundCell_scale hnorm hle24 hlo hhi (fun h => heven ?_) hleast
  simpa only [heq, Nat.cast_add, Nat.cast_mul, Nat.cast_ofNat, add_div, mul_div_assoc, ← hd.1, ← hd.2] using h

/-! The binary32 nearest to a real number. -/

/-- `x` is the finite binary32 nearest to `r`, ties to even, both in units of 2^-149. -/
def NearestReal (x : F32) (r : ℝ) : Prop :=
  ∀ y, Spec.Finite y → toUnits y ≠ toUnits x →
    |(toUnits x : ℝ) - r| < |(toUnits y : ℝ) - r| ∨
    (|(toUnits x : ℝ) - r| = |(toUnits y : ℝ) - r| ∧ x.getLsbD 0 = false)

theorem nearest_iff (x : F32) (num : Int) (sh : Nat) : Spec.Nearest x num sh ↔ NearestReal x (num / 2 ^ sh) := by
  have hw : (0 : ℝ) < 2 ^ sh := by positivity
  have key : ∀ z : F32, (((toUnits z * 2 ^ sh - num).natAbs : Nat) : ℝ) =
      |(toUnits z : ℝ) - num / 2 ^ sh| * 2 ^ sh := by
    intro z
    rw [Nat.cast_natAbs, ← abs_of_pos hw, ← abs_mul, abs_of_pos hw, sub_mul, div_mul_cancel₀ _ hw.ne']
    push_cast
    rfl
  unfold Spec.Nearest NearestReal
  refine forall_congr' fun y => imp_congr_right fun _ => imp_congr_right fun _ => or_congr ?_ (and_congr_left' ?_)
  · rw [← Nat.cast_lt (α := ℝ), key, key, mul_lt_mul_iff_left₀ hw]
  · rw [← Nat.cast_inj (R := ℝ), key, key, mul_left_inj' hw.ne']

/-- The units of `y`, negated for a negative value, lie on one side of the magnitude `R` or they are it. -/
theorem signed_toUnits_outside {R : Nat} {z : Int} {y : F32} (hz : z = toUnits y ∨ z = -toUnits y)
    (hne : z ≠ lowMag R) :
    (lowMag (R + 1) : Int) ≤ z ∨ (R ≠ 0 ∧ z ≤ lowMag (R - 1)) ∨ (R = 0 ∧ z < 0) := by
  have hz' : z = lowMag (lowBits y) ∨ z = -lowMag (lowBits y) := by
    rw [toUnits, mag_eq_lowMag] at hz
    split at hz <;> omega
  rcases Nat.lt_trichotomy (lowBits y) R with h | h | h
  · have := lowMag_strictMono.monotone (show lowBits y ≤ R - 1 by omega)
    omega
  · rw [h] at hz'
    have := lowMag_strictMono.monotone (Nat.zero_le (R - 1))
    omega
  · have := lowMag_strictMono.monotone (show R + 1 ≤ lowBits y by omega)
    have := lowMag_strictMono h
    omega

/-- The binary32 of the cell that holds `r` is nearest to `r`, and with a minus sign to `-r`. -/
theorem RoundCell.nearestReal {R : Nat} {r : ℝ} (h : RoundCell R r) (hr : 0 ≤ r) (hR : R < 2 ^ 31) (neg : Bool) :
    NearestReal (withSign neg R) (if neg then -r else r) := by
  have habs : ∀ z : Int, |(z : ℝ) - (if neg then -r else r)| = |((if neg then -z else z : Int) : ℝ) - r| := by
    intro z
    cases neg
    · rfl
    · rw [if_pos rfl, if_pos rfl, ← abs_neg, Int.cast_neg, neg_sub', neg_neg]
  have hx : (if neg then -toUnits (withSign neg R) else toUnits (withSign neg R)) = lowMag R := by
    rw [toUnits_withSign hR]; cases neg <;> simp
  intro y _ hne
  rw [habs, habs, hx]
  rw [toUnits_withSign hR] at hne
  have hout := signed_toUnits_outside (R := R) (y := y) (z := if neg then -toUnits y else toUnits y)
    (by cases neg <;> simp) (by cases neg <;> simp at hne ⊢ <;> omega)
  exact (h.nearest hr (by exact_mod_cast hout)).imp_right (And.imp_right (lsb_withSign hR))

/-! Correct rounding by `roundMag`. -/

theorem roundLow_overflow_iff (n k : Nat) : infBits ≤ roundLow n k ↔ (2 ^ 25 - 1) * 2 ^ 252 * 2 ^ k ≤ n := by
  rw [(roundCell_roundLow n k).infBits_le_iff, le_div_iff₀ (by positivity), ← Nat.cast_le (α := ℝ)]
  push_cast
  norm_num

/-- `roundMag` rounds the magnitude `|num| / 2^k` to nearest, ties to even; with the sign of `num` it rounds
`num / 2^k`. -/
theorem roundMag_nearest {num : Int} {k : Nat} (h : ¬Spec.Overflows num k) {neg : Bool}
    (hs : num = if neg then -(num.natAbs : Int) else num.natAbs) :
    Spec.Finite (withSign neg (roundMag num.natAbs k)) ∧
      Spec.Nearest (withSign neg (roundMag num.natAbs k)) num k := by
  have hlt : roundLow num.natAbs k < infBits := by
    rw [← not_le, roundLow_overflow_iff]; exact h
  rw [roundMag_eq, min_eq_right hlt.le]
  refine ⟨finite_withSign hlt, ?_⟩
  have hn := (roundCell_roundLow num.natAbs k).nearestReal (by positivity) (lt_trans hlt (by decide)) neg
  rw [nearest_iff]
  convert hn using 1
  rw [hs]
  cases neg
  · simp
  · simp [neg_div]

theorem roundMag_overflow {num : Int} {k : Nat} (h : Spec.Overflows num k) : roundMag num.natAbs k = infBits := by
  rw [roundMag_eq, min_eq_left ((roundLow_overflow_iff _ _).2 h)]

/-! Special operands. -/

theorem isNaN_of_finite {x : F32} (h : Spec.Finite x) : isNaN x = false := by
  unfold Spec.Finite at h; simp [isNaN, show expField x ≠ 255 by omega]

theorem isInf_of_finite {x : F32} (h : Spec.Finite x) : isInf x = false := by
  unfold Spec.Finite at h; simp [isInf, show expField x ≠ 255 by omega]

theorem isNaN_of_infinite {x : F32} (h : Spec.Infinite x) : isNaN x = false := by
  rcases h with rfl | rfl <;> decide

theorem isInf_of_infinite {x : F32} (h : Spec.Infinite x) : isInf x = true := by
  rcases h with rfl | rfl <;> decide

theorem infinite_eq_iff {a b : F32} (ha : Spec.Infinite a) (hb : Spec.Infinite b) :
    a = b ↔ signBit a = signBit b := by
  rcases ha with rfl | rfl <;> rcases hb with rfl | rfl <;> decide

@[simp] theorem signBit_fneg (x : F32) : signBit (fneg x) = !signBit x := by
  simp [signBit, fneg]

@[simp] theorem lowBits_fneg (x : F32) : lowBits (fneg x) = lowBits x := by
  rw [lowBits, fneg, BitVec.toNat_xor, Nat.xor_mod_two_pow]
  exact Nat.xor_zero _

theorem finite_fneg {x : F32} (h : Spec.Finite x) : Spec.Finite (fneg x) := by
  rw [finite_iff, lowBits_fneg]; exact (finite_iff x).1 h

theorem infinite_fneg {x : F32} (h : Spec.Infinite x) : Spec.Infinite (fneg x) := by
  rcases h with rfl | rfl
  · exact .inr rfl
  · exact .inl rfl

@[simp] theorem isNaN_fneg (x : F32) : isNaN (fneg x) = isNaN x := by
  simp [isNaN, expField_eq, fracField_eq]

/-- A magnitude is 0 exactly for +0.0 and −0.0. -/
theorem mag_eq_zero_iff (x : F32) : mag x = 0 ↔ Spec.Zero x := by
  have hx := x.isLt
  rw [mag_eq_lowMag, lowMag_eq_zero_iff, lowBits, Spec.Zero, ← BitVec.toNat_inj, ← BitVec.toNat_inj]
  simp only [BitVec.ofNat_eq_ofNat, BitVec.toNat_ofNat]
  omega

theorem withSign_infBits (neg : Bool) :
    withSign neg infBits = if neg then 0xFF800000#32 else 0x7F800000#32 := by cases neg <;> rfl

theorem withSign_zero (neg : Bool) : withSign neg 0 = if neg then 0x80000000#32 else 0 := by cases neg <;> rfl

/-! `fadd`, `fsub` and `fmul` (R10) by kind of operand. -/

theorem fadd_finite {a b : F32} (ha : Spec.Finite a) (hb : Spec.Finite b) : fadd a b =
    if toUnits a + toUnits b = 0 then withSign (signBit a && signBit b) 0
    else withSign (toUnits a + toUnits b < 0) (roundMag (toUnits a + toUnits b).natAbs 0) := by
  simp [fadd, isNaN_of_finite, isInf_of_finite, ha, hb]

theorem fadd_infinite_finite {a b : F32} (ha : Spec.Infinite a) (hb : Spec.Finite b) :
    fadd a b = a ∧ fadd b a = a := by
  simp [fadd, isNaN_of_finite, isInf_of_finite, isNaN_of_infinite, isInf_of_infinite, ha, hb]

theorem fadd_infinite {a b : F32} (ha : Spec.Infinite a) (hb : Spec.Infinite b) :
    fadd a b = if signBit a = signBit b then a else qNaN := by
  simp [fadd, isNaN_of_infinite, isInf_of_infinite, ha, hb, ite_not]

theorem fmul_finite {a b : F32} (ha : Spec.Finite a) (hb : Spec.Finite b) :
    fmul a b = withSign (signBit a != signBit b) (roundMag (mag a * mag b) 149) := by
  simp [fmul, isNaN_of_finite, isInf_of_finite, ha, hb]

/-- An infinity times a value that is not NaN, in either order. -/
theorem fmul_infinite {a b : F32} (ha : Spec.Infinite a) (hb : isNaN b = false) :
    fmul a b = (if isInf b = true ∨ mag b ≠ 0 then withSign (signBit a != signBit b) infBits else qNaN) ∧
      fmul b a = fmul a b := by
  have hm : mag a ≠ 0 := by rcases ha with rfl | rfl <;> decide
  have hs : (signBit b != signBit a) = (signBit a != signBit b) := bne_comm
  simp only [fmul, isNaN_of_infinite ha, isInf_of_infinite ha, hb, hs]
  cases isInf b <;> simp [hm]

theorem nan_operand {a b : F32} (h : isNaN a = true ∨ isNaN b = true) :
    fmul a b = qNaN ∧ fadd a b = qNaN ∧ fsub a b = qNaN := by
  simp [fmul, fadd, fsub, h]

theorem toUnits_mul (a b : F32) : toUnits a * toUnits b =
    if signBit a != signBit b then -((mag a * mag b : Nat) : Int) else (mag a * mag b : Nat) := by
  unfold toUnits
  cases signBit a <;> cases signBit b <;> simp

/-- Settles O53: the exact sum lies in the cell that `roundMag` finds (`roundMag_nearest`); the special operands by
their kinds. -/
theorem faddRoundsToNearest : Obligations.FaddRoundsToNearest := by
  unfold Obligations.FaddRoundsToNearest
  refine ⟨fun a b => ⟨rfl, rfl⟩, fun a b ha hb => ⟨fun h0 => ?_, fun h0 ho => ?_, fun h0 ho => ?_⟩,
    fun a b ha hb => ?_, fun a b ha hb => ?_⟩
  · rw [fadd_finite ha hb, if_pos h0, withSign_zero]; simp only [Bool.and_eq_true]
  · rw [fadd_finite ha hb, if_neg h0, roundMag_overflow ho, withSign_infBits]; simp only [decide_eq_true_eq]
  · rw [fadd_finite ha hb, if_neg h0]
    refine roundMag_nearest ho ?_
    simp only [decide_eq_true_eq]
    split <;> omega
  · obtain ⟨h₁, h₂⟩ := fadd_infinite_finite ha hb
    exact ⟨h₁, h₂, (fadd_infinite_finite ha (finite_fneg hb)).1, (fadd_infinite_finite (infinite_fneg ha) hb).2⟩
  · have hn := infinite_fneg hb
    rw [ne_eq, infinite_eq_iff ha hb, fadd_infinite ha hb, fsub, fadd_infinite ha hn, signBit_fneg]
    refine ⟨fun h => ?_, fun h => ?_⟩
    · simp [h, qNaN]
    · have h' : signBit a = !signBit b := by simpa [Bool.eq_not] using h
      rw [if_neg h, if_pos h']
      exact ⟨rfl, rfl⟩

/-- Settles O54: the exact product lies in the cell that `roundMag` finds; the special operands by their kinds. -/
theorem fmulRoundsToNearest : Obligations.FmulRoundsToNearest := by
  unfold Obligations.FmulRoundsToNearest
  have habs : ∀ a b : F32, (toUnits a * toUnits b).natAbs = mag a * mag b := fun a b => by
    rw [toUnits_mul]; split <;> omega
  have hsign : ∀ (a b : F32), withSign (signBit a != signBit b) infBits =
      if signBit a = signBit b then 0x7F800000#32 else 0xFF800000#32 := fun a b => by
    rw [withSign_infBits]; by_cases h : signBit a = signBit b <;> simp [h]
  refine ⟨fun a b ha hb => ?_, fun a b ha hb => ?_, fun a b ha hb => ?_, fun a b h => nan_operand h⟩
  · rw [fmul_finite ha hb, ← habs]
    refine ⟨signBit_withSign (roundMag_lt _ _), fun ho => ?_, fun ho => ?_⟩
    · rw [roundMag_overflow ho, hsign]
    · exact roundMag_nearest ho (by rw [habs]; exact toUnits_mul a b)
  · have hnan : isNaN b = false := hb.elim isNaN_of_infinite fun h => isNaN_of_finite h.1
    obtain ⟨h₁, h₂⟩ := fmul_infinite ha hnan
    have hr : isInf b = true ∨ mag b ≠ 0 := hb.imp isInf_of_infinite fun h h0 => h.2 ((mag_eq_zero_iff b).1 h0)
    rw [h₂, h₁, if_pos hr, hsign]
    exact ⟨rfl, rfl⟩
  · obtain ⟨hnan, hinf⟩ : isNaN b = false ∧ isInf b = false := by rcases hb with rfl | rfl <;> decide
    obtain ⟨h₁, h₂⟩ := fmul_infinite ha hnan
    rw [h₂, h₁, if_neg (by simp [hinf, (mag_eq_zero_iff b).2 hb])]
    exact ⟨rfl, rfl⟩

end Sys2Proof.Machine
end

section
/-! SUPPORT. GAIN (R11, R180): the bitwise integer root is exact, one digit and a sticky digit more decide the rounding,
and no value 10^(e/20) is a midpoint of two binary32 values. -/

namespace Sys2Proof.Machine

/-! The integer root. -/

/-- `rootBits` finds the integer root among the values that agree with `x` above the low `b` bits. -/
theorem rootBits_spec {k t : Nat} : ∀ {b x : Nat}, x ^ k ≤ t → t < (x + 2 ^ b) ^ k →
    rootBits k t b x ^ k ≤ t ∧ t < (rootBits k t b x + 1) ^ k
  | 0, _, hx, ht => ⟨hx, ht⟩
  | b + 1, x, hx, ht => by
    rw [rootBits]
    split
    · rename_i h
      refine rootBits_spec h ?_
      rwa [Nat.add_assoc, ← Nat.two_mul, ← Nat.pow_succ']
    · rename_i h
      exact rootBits_spec hx (Nat.lt_of_not_le h)

/-- The largest value GAIN takes a root of fits the 300 bits the root is given. -/
theorem gain_fits : 10 ^ 770 * 2 ^ 3000 < (0 + 2 ^ 300) ^ 20 := by decide +kernel

theorem gain_least : 10 ^ 903 < 2 ^ 3000 ∧ 2 ^ 3000 < 10 ^ 904 := by decide +kernel

theorem gain_largest : 10 ^ 770 * 2 ^ 3000 < ((2 ^ 25 - 1) * 2 ^ 253) ^ 20 ∧
    ((2 ^ 25 - 1) * 2 ^ 253) ^ 20 ≤ 10 ^ 771 * 2 ^ 3000 := by decide +kernel

/-- `gainUnits e` is 10^(e/20) in units of 2^-150, rounded down. -/
theorem gainUnits_spec {e : Int} (he : e ≤ 770) :
    gainUnits e ^ 20 * 10 ^ (-e).toNat ≤ 10 ^ e.toNat * 2 ^ 3000 ∧
      10 ^ e.toNat * 2 ^ 3000 < (gainUnits e + 1) ^ 20 * 10 ^ (-e).toNat := by
  have hd : 0 < 10 ^ (-e).toNat := Nat.pow_pos (by decide)
  have hle : 10 ^ e.toNat * 2 ^ 3000 / 10 ^ (-e).toNat ≤ 10 ^ 770 * 2 ^ 3000 :=
    (Nat.div_le_self _ _).trans
      (Nat.mul_le_mul_right _ (pow_le_pow_right₀ (by decide) (by omega)))
  obtain ⟨h₁, h₂⟩ := rootBits_spec (k := 20) (b := 300) (x := 0) (Nat.zero_le _) (lt_of_le_of_lt hle gain_fits)
  exact ⟨(Nat.le_div_iff_mul_le hd).1 h₁, (Nat.div_lt_iff_lt_mul hd).1 h₂⟩

/-! The sticky digit decides every comparison with a midpoint. -/

section

variable {n t d p : Nat}

/-- The digit after the root's last one: 0 exactly when the root is exact. -/
def sticky (n t d : Nat) : Nat := if n ^ 20 * d = t then 0 else 1

theorem pow_le_of_le_sticky (hn : n ^ 20 * d ≤ t) (h : 2 * p ≤ 2 * n + sticky n t d) : p ^ 20 * d ≤ t := by
  have hp : p ≤ n := by unfold sticky at h; split at h <;> omega
  exact le_trans (Nat.mul_le_mul_right _ (Nat.pow_le_pow_left hp _)) hn

theorem le_pow_of_sticky_le (hn : t < (n + 1) ^ 20 * d) (h : 2 * n + sticky n t d ≤ 2 * p) : t ≤ p ^ 20 * d := by
  unfold sticky at h
  split at h
  · rename_i he
    rw [← he]
    exact Nat.mul_le_mul_right _ (Nat.pow_le_pow_left (by omega) _)
  · exact le_trans hn.le (Nat.mul_le_mul_right _ (Nat.pow_le_pow_left (by omega) _))

end

/-! No midpoint is a value of GAIN. -/

/-- A midpoint of two neighbours, doubled, is an odd number of more than 24 bits times a power of two, or it is odd. -/
theorem midpoint_eq (m : Nat) : ∃ e q, (e = 0 ∨ 2 ^ 23 ≤ q) ∧ q < 2 ^ 24 ∧
    lowMag m + lowMag (m + 1) = (2 * q + 1) * 2 ^ e := by
  obtain ⟨e, q, h, hq, rfl⟩ := exists_scale m
  refine ⟨e, q, h, hq, ?_⟩
  rw [lowMag_scale h (by omega), Nat.add_assoc, lowMag_scale (by omega) (by omega)]
  ring

/-- Between 2^24 and 2^25 there is no power of 5. -/
theorem five_pow_ne {q j : Nat} (hlo : 2 ^ 23 ≤ q) (hhi : q < 2 ^ 24) : 2 * q + 1 ≠ 5 ^ j := by
  rcases Nat.lt_or_ge j 11 with h | h
  · have := Nat.pow_le_pow_right (show 0 < 5 by decide) (show j ≤ 10 by omega)
    omega
  · have := Nat.pow_le_pow_right (show 0 < 5 by decide) h
    omega

/-- 10^(e/20) is no midpoint: for e < 0 the factor 5 is missing on one side, for e ≥ 0 the odd part would be a power
of 5 of 25 bits. -/
theorem midpoint_ne (m : Nat) (e : Int) {w : Nat} (hw : w ≠ 0) :
    (lowMag m + lowMag (m + 1)) ^ 20 * 10 ^ (-e).toNat ≠ 10 ^ e.toNat * 2 ^ w := by
  obtain ⟨x, q, hx, hq, hm⟩ := midpoint_eq m
  rw [hm]
  intro h
  rcases lt_or_ge e 0 with he | he
  · rw [show e.toNat = 0 by omega, pow_zero, one_mul] at h
    have h5 : 5 ∣ 2 ^ w := by
      rw [← h]
      exact Dvd.dvd.mul_left (dvd_pow (show 5 ∣ 10 by decide) (by omega)) _
    exact absurd (Nat.prime_five.dvd_of_dvd_pow h5) (by decide : ¬5 ∣ 2)
  · rw [show (-e).toNat = 0 by omega, pow_zero, mul_one, mul_pow] at h
    rcases hx with rfl | hx
    · have h2 : 2 ∣ (2 * q + 1) ^ 20 := by
        rw [pow_zero, one_pow, mul_one] at h
        rw [h]
        exact Dvd.dvd.mul_left (dvd_pow_self 2 hw) _
      have := Nat.prime_two.dvd_of_dvd_pow h2
      omega
    · have hdvd : 2 * q + 1 ∣ 5 ^ e.toNat * 2 ^ (e.toNat + w) := by
        have e10 : 10 ^ e.toNat * 2 ^ w = 5 ^ e.toNat * 2 ^ (e.toNat + w) := by
          rw [show 10 = 5 * 2 by rfl, mul_pow, Nat.mul_assoc, ← pow_add]
        rw [← e10, ← h]
        exact Dvd.dvd.mul_right (dvd_pow_self _ (by decide)) _
      have hcop : Nat.Coprime (2 * q + 1) (2 ^ (e.toNat + w)) :=
        Nat.Coprime.pow_right _ (Nat.coprime_two_right.2 ⟨q, rfl⟩)
      obtain ⟨j, _, hj⟩ := (Nat.dvd_prime_pow Nat.prime_five).1 (hcop.dvd_of_dvd_mul_right hdvd)
      exact five_pow_ne hx hq hj

/-! GAIN. -/

theorem gain_eq {e : Int} (hlo : -903 ≤ e) (hhi : e ≤ 770) : gain e = withSign false
    (roundMag (2 * gainUnits e + sticky (gainUnits e) (10 ^ e.toNat * 2 ^ 3000) (10 ^ (-e).toNat)) 2) := by
  rw [gain, if_neg (by omega), if_neg (by omega)]
  rfl

theorem RoundCell.nat_lower {R n k : Nat} (h : RoundCell R (n / 2 ^ k)) (h0 : R ≠ 0) :
    (lowMag (R - 1) + lowMag R) * 2 ^ k ≤ 2 * n := by
  have h₁ := h.lower h0
  rw [← mul_div_assoc, le_div_iff₀ (by positivity)] at h₁
  exact_mod_cast h₁

theorem RoundCell.nat_upper {R n k : Nat} (h : RoundCell R (n / 2 ^ k)) :
    2 * n ≤ (lowMag R + lowMag (R + 1)) * 2 ^ k := by
  have h₁ := h.upper
  rw [← mul_div_assoc, div_le_iff₀ (by positivity)] at h₁
  exact_mod_cast h₁

/-- The rounded root with its sticky digit lies strictly between the midpoints beside it, where no midpoint is exact. -/
theorem root_between_midpoints {n t d R : Nat} (hn₁ : n ^ 20 * d ≤ t) (hn₂ : t < (n + 1) ^ 20 * d)
    (hmid : ∀ m, (lowMag m + lowMag (m + 1)) ^ 20 * d ≠ t)
    (hcell : RoundCell R ((2 * n + sticky n t d : Nat) / 2 ^ 2)) :
    t < (lowMag R + lowMag (R + 1)) ^ 20 * d ∧ (R ≠ 0 → (lowMag (R - 1) + lowMag R) ^ 20 * d < t) := by
  refine ⟨lt_of_le_of_ne (le_pow_of_sticky_le hn₂ ?_) (hmid R).symm, fun h0 => ?_⟩
  · have := hcell.nat_upper
    omega
  · have hne := hmid (R - 1)
    rw [Nat.sub_add_cancel (by omega)] at hne
    refine lt_of_le_of_ne (pow_le_of_le_sticky hn₁ ?_) hne
    have := hcell.nat_lower h0
    omega

/-- GAIN in the range of R180: positive, finite, and strictly between the midpoints to its neighbours. -/
theorem gain_rounds {e : Int} (hlo : -903 ≤ e) (hhi : e ≤ 770) : ∃ R, gain e = withSign false R ∧ R ≠ 0 ∧ R < infBits ∧
    (lowMag (R - 1) + lowMag R) ^ 20 * 10 ^ (-e).toNat < 10 ^ e.toNat * 2 ^ 3000 ∧
    10 ^ e.toNat * 2 ^ 3000 < (lowMag R + lowMag (R + 1)) ^ 20 * 10 ^ (-e).toNat := by
  obtain ⟨hn₁, hn₂⟩ := gainUnits_spec hhi
  have hd₀ : 1 ≤ 10 ^ (-e).toNat := Nat.one_le_pow _ _ (by decide)
  have hd : 10 ^ (-e).toNat ≤ 10 ^ 903 := pow_le_pow_right₀ (by decide) (by omega)
  have ht : 10 ^ e.toNat * 2 ^ 3000 ≤ 10 ^ 770 * 2 ^ 3000 :=
    Nat.mul_le_mul_right _ (pow_le_pow_right₀ (by decide) (by omega))
  have ht₀ : 2 ^ 3000 ≤ 10 ^ e.toNat * 2 ^ 3000 := Nat.le_mul_of_pos_left _ (Nat.pow_pos (by decide))
  have hmid := fun m => midpoint_ne m e (w := 3000) (by decide)
  rw [gain_eq hlo hhi, roundMag_eq]
  generalize gainUnits e = n at *
  generalize 10 ^ (-e).toNat = d at *
  generalize 10 ^ e.toNat * 2 ^ 3000 = t at *
  have hover := roundLow_overflow_iff (2 * n + sticky n t d) 2
  obtain ⟨hupper, hlower⟩ := root_between_midpoints hn₁ hn₂ hmid (roundCell_roundLow _ 2)
  generalize roundLow (2 * n + sticky n t d) 2 = R at *
  have hR₀ : R ≠ 0 := by
    rintro rfl
    exact absurd (calc 2 ^ 3000 ≤ t := ht₀
      _ < d := by simpa [lowMag] using hupper
      _ ≤ 10 ^ 903 := hd) gain_least.1.le.not_gt
  have hR : R < infBits := by
    by_contra hc
    have := pow_le_of_le_sticky (p := (2 ^ 25 - 1) * 2 ^ 253) hn₁ (by have := hover.1 (not_lt.1 hc); omega)
    have := Nat.le_mul_of_pos_right (((2 ^ 25 - 1) * 2 ^ 253) ^ 20) hd₀
    have := gain_largest.1
    omega
  exact ⟨R, by rw [min_eq_right hR.le], hR₀, hR, hlower hR₀, hupper⟩

/-- Settles O45: the range by `gain_rounds`, and the bounds 771 and −904 outside it. -/
theorem gainIsCorrectlyRounded : Obligations.GainIsCorrectlyRounded := by
  unfold Obligations.GainIsCorrectlyRounded
  refine ⟨fun e hlo hhi => ?_, fun e he => ⟨?_, ?_⟩, fun e he => ⟨?_, ?_⟩⟩
  · obtain ⟨R, hgain, h0, hR, hlower, hupper⟩ := gain_rounds hlo hhi
    have hb : infBits < 2 ^ 31 := by decide
    have hn : (gain e).toNat = R := by rw [hgain, toNat_withSign (by omega), if_neg (by decide), Nat.zero_add]
    simp only [hn]
    rw [magOf_eq_lowMag (by omega), magOf_eq_lowMag (by omega), magOf_eq_lowMag (by omega)]
    exact ⟨by omega, hR, hlower, hupper⟩
  · rw [gain, if_pos he, withSign_infBits, if_neg (by decide)]
  · exact le_trans gain_largest.2 (Nat.mul_le_mul_right _ (pow_le_pow_right₀ (by decide) (by omega)))
  · rw [gain, if_neg (by omega), if_pos he, withSign_zero, if_neg (by decide)]
  · exact lt_of_lt_of_le gain_least.2 (pow_le_pow_right₀ (by decide) (by omega))

end Sys2Proof.Machine
end

section
/-! SUPPORT. ROT_SIN and WIN (R11). Every argument is j·π/16384 for some j ≤ 8192. That a value is rounded correctly
needs that no midpoint lies within the error of the integer series, which no general law of the sine gives: it is
evaluated for each j. -/

namespace Sys2Proof.Machine

/-! What rounds to a cell, from an interval that holds no midpoint. -/

/-- Between two neighbouring multiples of half a unit, of which one is a whole significand, all values round to that
significand. -/
theorem roundCell_of_halves {e f : Nat} {t : ℝ} (hf : 2 ^ 24 ≤ f) (hf' : f < 2 ^ 25)
    (hlo : (f * 2 ^ e : ℝ) < 2 * t) (hhi : 2 * t < ((f + 1) * 2 ^ e : ℝ)) :
    RoundCell (e * 2 ^ 23 + (f + 1) / 2) t := by
  obtain ⟨q, hq⟩ : ∃ q, q = (f + 1) / 2 := ⟨_, rfl⟩
  rw [← hq]
  have he : (0 : ℝ) < 2 ^ e := by positivity
  have h₁ : (2 * q * 2 ^ e : ℝ) ≤ (f + 1) * 2 ^ e := by
    gcongr; exact_mod_cast (show 2 * q ≤ f + 1 by omega)
  have h₂ : (f * 2 ^ e : ℝ) ≤ 2 * q * 2 ^ e := by
    gcongr; exact_mod_cast (show f ≤ 2 * q by omega)
  refine roundCell_scale (.inr (by omega)) (by omega) (by linarith) (by linarith)
    (fun h => by rcases h with h | h <;> linarith) ?_
  by_cases hl : q = 2 ^ 23
  · have h₃ : (f : ℝ) = 2 * q := by exact_mod_cast (show f = 2 * q by omega)
    rw [h₃] at hlo
    exact .inl (by linarith)
  · exact .inr (.inr hl)

/-- A magnitude lies in its own cell. -/
theorem roundCell_lowMag (R : Nat) : RoundCell R (lowMag R) := by
  have h := lowMag_lt_real (Nat.lt_succ_self R)
  have h' : R ≠ 0 → (lowMag (R - 1) : ℝ) < lowMag R := fun h0 => lowMag_lt_real (by omega)
  exact ⟨fun h0 => by linarith [h' h0], fun h0 _ => by linarith [h' h0], by linarith, fun _ => by linarith⟩

/-- A value of at most 1 does not overflow. -/
theorem RoundCell.lt_infBits {R : Nat} {r : ℝ} (h : RoundCell R (r * 2 ^ 149)) (h1 : r ≤ 1) : R < infBits := by
  rw [← not_le, h.infBits_le_iff, not_le]
  linarith [show (2 ^ 149 : ℝ) < (2 ^ 25 - 1) * 2 ^ 252 by norm_num]

/-- The binary32 of the cell of `r` is RNE32 of R11. -/
theorem RoundCell.roundsReal {R : Nat} {r : ℝ} (h : RoundCell R (r * 2 ^ 149)) (h0 : 0 ≤ r) (h1 : r ≤ 1) :
    Spec.RoundsReal (withSign false R) r := by
  have hR := h.lt_infBits h1
  have hlt : R < 2 ^ 31 := lt_trans hR (by decide)
  exact ⟨finite_withSign hR, signBit_withSign hlt, h.nearestReal (by positivity) hlt false⟩

/-! The error interval of a series value, and the check that it holds no multiple of half a unit. -/

/-- The values within 2^101 of `n` have the same 25 leading bits, the last of them the bit `m`. -/
def cellAt (n m : Nat) : Bool :=
  (2 ^ 24).ble ((n - 2 ^ 101) >>> m) && (((n - 2 ^ 101) >>> m).ble (2 ^ 25 - 1) &&
    ((n + 2 ^ 101) >>> m).beq ((n - 2 ^ 101) >>> m))

/-- `cellAt` for the place of the last bit that the size of `n` asks for, the largest first. -/
def inCell (n : Nat) : Bool := (List.range 13).any fun i => cellAt n (135 - i)

theorem cellAt_spec {n m : Nat} (h : cellAt n m = true) :
    ∃ f, 2 ^ 24 ≤ f ∧ f < 2 ^ 25 ∧ f * 2 ^ m + 2 ^ 101 ≤ n ∧ n + 2 ^ 101 < (f + 1) * 2 ^ m := by
  simp only [cellAt, Bool.and_eq_true, Nat.ble_eq, Nat.beq_eq, Nat.shiftRight_eq_div_pow] at h
  obtain ⟨h₁, h₂, h₃⟩ := h
  generalize hf : (n - 2 ^ 101) / 2 ^ m = f at h₁ h₂ h₃
  have hm : 0 < 2 ^ m := by positivity
  have h₄ : f * 2 ^ m ≤ n - 2 ^ 101 := by rw [← hf]; exact Nat.div_mul_le_self _ _
  have h₅ : n + 2 ^ 101 < (f + 1) * 2 ^ m := by
    rw [← h₃]; exact (Nat.div_lt_iff_lt_mul hm).1 (Nat.lt_succ_self _)
  have h₆ : 0 < f * 2 ^ m := Nat.mul_pos (lt_of_lt_of_le (by decide) h₁) hm
  exact ⟨f, h₁, by omega, by omega, h₅⟩

/-- All values of the error interval lie in the cell that `roundMag` finds for the series value. -/
theorem roundCell_of_inCell {n : Nat} {s : ℝ} (h : inCell n = true) (hs : |(n : ℝ) - s| ≤ 2 ^ 100) :
    RoundCell (roundLow n 11) (s / 2 ^ 11) := by
  simp only [inCell, List.any_eq_true, List.mem_range] at h
  obtain ⟨i, hi, hc⟩ := h
  obtain ⟨f, hf, hf', hlo, hhi⟩ := cellAt_spec hc
  obtain ⟨e, he⟩ : ∃ e, 135 - i = e + 10 := ⟨125 - i, by omega⟩
  rw [he, pow_add] at hlo hhi
  have hlo' : (f * (2 ^ e * 2 ^ 10) + 2 ^ 101 : ℝ) ≤ n := by exact_mod_cast hlo
  have hhi' : (n + 2 ^ 101 : ℝ) < (f + 1) * (2 ^ e * 2 ^ 10) := by exact_mod_cast hhi
  have cell : ∀ u : ℝ, |(n : ℝ) - u| ≤ 2 ^ 100 → RoundCell (e * 2 ^ 23 + (f + 1) / 2) (u / 2 ^ 11) := by
    intro u hu
    obtain ⟨hu₁, hu₂⟩ := abs_le.1 hu
    norm_num at hlo' hhi' hu₁ hu₂
    refine roundCell_of_halves hf hf' ?_ ?_ <;> norm_num <;> linarith
  rw [(roundCell_roundLow n 11).unique (cell n (by simp))]
  exact cell s hs

/-! The grid of arguments. -/

/-- `sineTail` as a recursion on x² that the kernel evaluates fast. -/
def sineTailRec (y f : Nat) : Nat → Nat → Nat :=
  Nat.rec (fun _ _ => 0) (fun _ tail k t =>
    t.sub (tail (k.add 2) (((t.mul y).div (2 ^ 320)).div ((k.add 1).mul (k.add 2))))) f

theorem sineTailRec_eq (x f : Nat) : ∀ k t, sineTailRec (x * x) f k t = sineTail x f k t := by
  induction f with
  | zero => intro k t; rfl
  | succ f ih =>
    intro k t
    change t - sineTailRec (x * x) f (k + 2) (t * (x * x) / 2 ^ 320 / ((k + 1) * (k + 2))) = _
    rw [ih, ← Nat.mul_assoc]
    rfl

/-- `sineUnits` at j·π/16384, by `sineTailRec`. -/
def sineGrid (j : Nat) : Nat := sineTailRec (j * piUnits / 16384 * (j * piUnits / 16384)) 24 1 (j * piUnits / 16384)

theorem sineGrid_eq (j : Nat) : sineGrid j = sineUnits j 16384 := sineTailRec_eq _ _ _ _

/-- No midpoint lies within the error of a value of the grid. -/
theorem sineGrid_inCell : ((List.range' 1 8191).all fun j => inCell (sineGrid j)) = true := by decide +kernel

/-- The series depends on the angle only. -/
theorem sineUnits_mul_left {a num den : Nat} (ha : 0 < a) : sineUnits (a * num) (a * den) = sineUnits num den := by
  simp only [sineUnits, Nat.mul_assoc, Nat.mul_div_mul_left _ _ ha]

/-- RNE32 of the sine of an angle of the grid, strictly between 0 and π/2. -/
theorem sine32_roundsReal {a num den : Nat} (hden : a * den = 16384) (h0 : 0 < num) (h1 : 2 * num < den) :
    Spec.RoundsReal (sine32 num den) (Real.sin (num * Real.pi / den)) := by
  have ha : 0 < a := Nat.pos_of_ne_zero (by rintro rfl; simp at hden)
  have hd : (0 : ℝ) < den := by exact_mod_cast (show 0 < den by omega)
  have hj : a * (2 * num) < a * den := Nat.mul_lt_mul_of_pos_left h1 ha
  have hin : inCell (sineUnits num den) = true := by
    rw [← sineUnits_mul_left ha, hden, ← sineGrid_eq]
    refine List.all_eq_true.1 sineGrid_inCell _ (List.mem_range'_1.2 ⟨Nat.mul_pos ha h0, ?_⟩)
    rw [hden] at hj
    linarith
  have hcell := roundCell_of_inCell hin (sineUnits_error (by omega) h1.le)
  have hsin : 0 ≤ Real.sin (num * Real.pi / den) := by
    refine Real.sin_nonneg_of_nonneg_of_le_pi (by positivity) ?_
    rw [div_le_iff₀ hd, mul_comm]
    exact mul_le_mul_of_nonneg_left (by exact_mod_cast (show num ≤ den by omega)) Real.pi_pos.le
  have e : Real.sin (num * Real.pi / den) * 2 ^ 160 / 2 ^ 11 = Real.sin (num * Real.pi / den) * 2 ^ 149 := by
    rw [mul_div_assoc]; norm_num
  rw [e] at hcell
  rw [sine32, roundMag_eq, min_eq_right (hcell.lt_infBits (Real.sin_le_one _)).le]
  exact hcell.roundsReal hsin (Real.sin_le_one _)

/-- A binary32 that has the value of the sine rounds to itself. -/
theorem roundsReal_of_exact {R : Nat} {r : ℝ} (h : (lowMag R : ℝ) = r * 2 ^ 149) (h0 : 0 ≤ r) (h1 : r ≤ 1) :
    Spec.RoundsReal (withSign false R) r :=
  RoundCell.roundsReal (h ▸ roundCell_lowMag R) h0 h1

/-- ROT_SIN (R11). -/
theorem rotSin_roundsReal {i : Nat} (hi : i ≤ 32) : Spec.RoundsReal (rotSin i) (Real.sin (i * Real.pi / 64)) := by
  rcases Nat.eq_zero_or_pos i with rfl | h0
  · have hr : rotSin 0 = withSign false 0 := by decide +kernel
    rw [hr]
    exact roundsReal_of_exact (by simp) (by simp) (by simp)
  · rcases Nat.lt_or_ge i 32 with h1 | h1
    · exact sine32_roundsReal (a := 256) (by norm_num) h0 (by omega)
    · have hr : rotSin 32 = withSign false 0x3F800000 := by decide +kernel
      have hs : Real.sin ((32 : Nat) * Real.pi / 64) = 1 := by
        rw [← Real.sin_pi_div_two]; congr 1; push_cast; ring
      have hm : lowMag 0x3F800000 = 2 ^ 23 * 2 ^ 126 :=
        lowMag_scale (e := 126) (q := 2 ^ 23) (.inr le_rfl) (by norm_num)
      obtain rfl : i = 32 := by omega
      rw [hr, hs]
      exact roundsReal_of_exact (by rw [hm]; norm_num) zero_le_one le_rfl

/-- WIN (R11). -/
theorem win_roundsReal {k n : Nat} (hk : k ≤ 5) (hn : n < 128 * 2 ^ k) :
    Spec.RoundsReal (win (128 * 2 ^ k) n) (Real.sin ((n + 1 / 2) * Real.pi / (2 * (128 * 2 ^ k)))) := by
  have hgrid : 2 ^ (5 - k) * (4 * (128 * 2 ^ k)) = 16384 := by
    have : 2 ^ (5 - k) * 2 ^ k = 2 ^ 5 := by rw [← Nat.pow_add, Nat.sub_add_cancel hk]
    linarith
  have h := sine32_roundsReal (num := 2 * n + 1) hgrid (by omega) (by omega)
  have e : (((2 * n + 1 : Nat) : ℝ) * Real.pi / (4 * (128 * 2 ^ k) : Nat)) =
      (n + 1 / 2) * Real.pi / (2 * (128 * 2 ^ k)) := by
    push_cast
    field_simp
    ring
  rwa [e] at h

end Sys2Proof.Machine
end

section
/-! SUPPORT. The step at a CMD write, MX_ROT, IMDCT and WINDOW as whole next states (R14, R166, R190, R200). -/

namespace Sys2Proof.Machine

/-! A command that passes the lock and the configuration check. -/

theorem runConfigured_ok {s : State} (h : Spec.Ready s) (t : State) :
    runConfigured s (.ok t) = .next (Spec.finished t) := by
  rw [runConfigured_eq h.2, run_ok h.1]; rfl

theorem runConfigured_error {s : State} (h : Spec.Ready s) (e : CmdError) :
    runConfigured s (.error e) = .next (Spec.raised s (errorCode e) (errorInfo e)) := by
  rw [runConfigured_eq h.2, run_error h.1]; rfl

/-- The checks of a command on the subframe of channel `c`, in their order (R130, R222). -/
theorem subframe_checks {s : State} (hr : Spec.Ready s) (c : BitVec 3) (t : State) :
    let out := runConfigured s (if !s.hasChannel c then .error .operandRange
      else if !s.subValid then .error .noSubframe else .ok t)
    (s.cfgNch.toNat ≤ c.toNat → out = .next (Spec.raised s 4 3)) ∧
    (c.toNat < s.cfgNch.toNat → s.subValid = false → out = .next (Spec.raised s 6 2)) ∧
    (c.toNat < s.cfgNch.toNat → s.subValid = true → out = .next (Spec.finished t)) := by
  refine ⟨fun hc => ?_, fun hc hv => ?_, fun hc hv => ?_⟩
  · rw [if_pos (by simpa [State.hasChannel] using hc)]
    exact runConfigured_error hr _
  · rw [if_neg (by simpa [State.hasChannel] using hc), if_pos (by simp [hv])]
    exact runConfigured_error hr _
  · rw [if_neg (by simpa [State.hasChannel] using hc), if_neg (by simp [hv])]
    exact runConfigured_ok hr _

/-! The step at a CMD write (R14, R25). -/

theorem broken_none_of_sound {s : State} (h : Spec.Sound s) : s.broken = none := by
  obtain ⟨hb, he, hv⟩ := h
  refine (broken_none_iff s).2 ⟨hb, by omega, fun r hr => ?_⟩
  obtain ⟨i, hi, rfl⟩ := List.getElem_of_mem hr
  have hi' : i < 16 := by simpa using hi
  have := hv (BitVec.ofNat 4 i)
  simpa [State.table, Nat.mod_eq_of_lt hi'] using this

/-- A host that waits makes no access inside the interval. -/
theorem overlap_of_waits {rest : List HostOp} (h : Spec.Waits rest) (iv : Interval) (s : State) :
    State.overlap rest iv s = (iv, { s with host := rest }) := by
  cases rest with
  | nil => rfl
  | cons op rest => rw [State.overlap, h op rfl]; rfl

/-- Settles O5, through `step_eq` and `overlap_of_waits`. -/
theorem stepRunsDecodedCommand : Obligations.StepRunsDecodedCommand := by
  unfold Obligations.StepRunsDecodedCommand
  intro s early addr w rest i hs hhost haddr hw hdec
  rw [step_eq (broken_none_of_sound hs), hhost]
  have hcmd : busOffset addr = cmdOffset := haddr
  simp only [hostEvent, hcmd, if_true, issueCommand, overlap_of_waits hw, runWord, hdec]
  rfl

/-! MX_ROT (R166). -/

/-- One column of `rotateRows`. -/
def rotateColumn (x i : Nat) (sinv cosv : F32) (m : Matrix) (y : Nat) : Matrix :=
  matSet (matSet m x y (fsub (fmul (matGet m x y) sinv) (fmul (matGet m i y) cosv))) i y
    (fadd (fmul (matGet m x y) cosv) (fmul (matGet m i y) sinv))

theorem rotateRows_eq (m : Matrix) (x i : Nat) (sinv cosv : F32) :
    rotateRows m x i sinv cosv = (List.range (i + 1)).foldl (rotateColumn x i sinv cosv) m := rfl

/-- A plane rotation in place is the rotation on whole rows: each column is read before it is written. -/
theorem matGet_rotateRows (m : Matrix) {x i : Nat} (hx : x < 8) (hi : i < 8) (hne : x ≠ i) (sinv cosv : F32) :
    matGet (rotateRows m x i sinv cosv) = Spec.rotateAt (matGet m) x i sinv cosv := by
  have key : ∀ n, n ≤ i + 1 → ∀ r y, matGet ((List.range n).foldl (rotateColumn x i sinv cosv) m) r y =
      if y < n then Spec.rotateAt (matGet m) x i sinv cosv r y else matGet m r y := by
    intro n hn
    induction n with
    | zero => intro r y; rfl
    | succ n ih =>
      intro r y
      have ih := ih (by omega)
      rw [List.range_succ, List.foldl_append, List.foldl_cons, List.foldl_nil, rotateColumn,
        matGet_matSet _ _ hi (by omega), matGet_matSet _ _ hx (by omega), ih x n, ih i n, ih r y]
      simp only [Nat.lt_irrefl, if_false, Spec.rotateAt]
      rcases Nat.lt_trichotomy y n with h | rfl | h
      · simp only [h, h.ne, and_false, if_false, if_true, show y < n + 1 by omega]
      · simp only [and_true, Nat.lt_irrefl, Nat.lt_succ_self, if_false, if_true, show y ≤ i by omega]
        by_cases h₁ : r = i
        · simp [h₁, hne.symm]
        · simp [h₁]
      · simp only [h.not_gt, h.ne', and_false, if_false, show ¬y < n + 1 by omega]
  funext r y
  rw [rotateRows_eq, key _ le_rfl]
  split
  · rfl
  · rw [Spec.rotateAt, if_neg (by omega)]

/-- Row `i` of the synthesis, the in-place loop over the rows below it. -/
theorem matGet_rotationStep (ang : Vector (BitVec 6) 28) (m : Matrix) {i : Nat} (hi : i < 8) :
    matGet (rotationStep ang m (i * (i - 1) / 2) i) =
      Spec.rotateRow (fun k => (ang.getD k 0).toNat) i (matGet m) i := by
  have key : ∀ n, n ≤ i → matGet ((List.range n).foldl (fun m x =>
      let code := (ang.getD (i * (i - 1) / 2 + x) 0).toNat
      rotateRows m x i (angleSin code) (angleCos code)) m) =
      Spec.rotateRow (fun k => (ang.getD k 0).toNat) i (matGet m) n := by
    intro n hn
    induction n with
    | zero => rfl
    | succ n ih =>
      rw [List.range_succ, List.foldl_append, List.foldl_cons, List.foldl_nil,
        matGet_rotateRows _ (by omega) hi (by omega), ih (by omega)]
      rfl
  exact key i le_rfl

theorem matGet_diagonal_all {n : Nat} (hn : n ≤ 8) (d : Nat → F32) (i j : Nat) :
    matGet (diagonal n d) i j = if i = j ∧ i < n then d i else 0 := by
  by_cases h : i < 8 ∧ j < 8
  · exact matGet_diagonal n d h.1 h.2
  · rw [matGet_of_ge _ (by omega), if_neg (by omega)]

/-- The angle codes of row i + 1 follow those of row i (R166). -/
theorem angleOffset_succ (k : Nat) : (k + 1) * k / 2 + (k + 1) = (k + 2) * (k + 1) / 2 := by
  rw [show (k + 2) * (k + 1) = (k + 1) * k + (k + 1) * 2 by ring, Nat.add_mul_div_right _ _ (by decide)]

/-- The synthesis after the rows 1..k, with the number of angle codes used. -/
def rotationRows (n : Nat) (sgn : BitVec 8) (ang : Vector (BitVec 6) 28) (k : Nat) : Matrix × Nat :=
  (List.range' 1 k).foldl (fun (acc : Matrix × Nat) i => (rotationStep ang acc.1 acc.2 i, acc.2 + i))
    (diagonal n (fun i => if sgn.getLsbD i then one32 else minusOne32), 0)

theorem rotationRows_succ (n : Nat) (sgn : BitVec 8) (ang : Vector (BitVec 6) 28) (k : Nat) :
    rotationRows n sgn ang (k + 1) =
      (rotationStep ang (rotationRows n sgn ang k).1 (rotationRows n sgn ang k).2 (k + 1),
        (rotationRows n sgn ang k).2 + (k + 1)) := by
  simp only [rotationRows, List.range'_concat, List.foldl_append, List.foldl_cons, List.foldl_nil, Nat.one_mul,
    Nat.add_comm 1 k]

/-- The in-place synthesis is the composition of the rotations. -/
theorem matGet_rotationMatrix {n : Nat} (h0 : n ≠ 0) (hn : n ≤ 8) (sgn : BitVec 8) (ang : Vector (BitVec 6) 28) :
    matGet (rotationMatrix n sgn ang) = Spec.customMatrix n sgn (fun k => (ang.getD k 0).toNat) n := by
  have key : ∀ k, k + 1 ≤ n → (rotationRows n sgn ang k).2 = (k + 1) * k / 2 ∧
      matGet (rotationRows n sgn ang k).1 = Spec.customMatrix n sgn (fun k => (ang.getD k 0).toNat) (k + 1) := by
    intro k hk
    induction k with
    | zero =>
      refine ⟨rfl, ?_⟩
      funext i j
      have h0 : (rotationRows n sgn ang 0).1 = diagonal n (fun i => if sgn.getLsbD i then one32 else minusOne32) := rfl
      rw [h0, matGet_diagonal_all hn, Spec.customMatrix, Spec.rotateRow, Spec.customMatrix]
      rfl
    | succ k ih =>
      obtain ⟨h₁, h₂⟩ := ih (by omega)
      rw [rotationRows_succ]
      refine ⟨by rw [h₁]; exact angleOffset_succ k, ?_⟩
      have h := matGet_rotationStep ang (rotationRows n sgn ang k).1 (show k + 1 < 8 by omega)
      rw [Nat.add_sub_cancel, ← h₁, h₂] at h
      exact h
  have h := (key (n - 1) (by omega)).2
  rwa [Nat.sub_add_cancel (by omega)] at h

/-- A group with the matrix of its size, signs and angles. -/
def Group.rotated (r : Group) : Group := { r with mat := rotationMatrix r.count r.sgn r.ang }

theorem exec_mxRot {s : State} (hr : Spec.Ready s) (g : BitVec 3) : exec (.mxRot g) s =
    if (s.group g).count = 0 then .next (Spec.raised s 6 3)
    else .next (Spec.finished (s.setGroup g (s.group g).rotated)) := by
  change execMxRot g s = _
  rw [execMxRot]
  split
  · exact runConfigured_error hr _
  · exact runConfigured_ok hr _

/-- Settles O42: the in-place loop by `matGet_rotationMatrix`, the sine table by `rotSin_roundsReal`. -/
theorem mxRotComposesRotations : Obligations.MxRotComposesRotations := by
  unfold Obligations.MxRotComposesRotations
  refine ⟨fun i hi => rotSin_roundsReal hi, by decide, fun s g hr => ?_⟩
  rw [exec_mxRot hr]
  refine ⟨fun h0 => if_pos (by rw [Group.count, h0]; rfl), fun h0 hle => ?_⟩
  have hc : (s.group g).count ≠ 0 := fun h => h0 (BitVec.eq_of_toNat_eq h)
  have hg : (Spec.finished (s.setGroup g (s.group g).rotated)).group g = (s.group g).rotated :=
    State.group_setGroup_self s g _
  refine ⟨_, if_neg hc, rfl, by rw [hg]; rfl, fun d hd => ?_, fun i j _ _ => ?_⟩
  · exact (State.group_setGroup s g d _).trans (if_neg (by tauto))
  · rw [hg]
    exact congrFun (congrFun (matGet_rotationMatrix hc hle _ _) i) j

/-! Writes to a block of PCM samples (R42). -/

/-- The samples and the bytes after a list of samples is written inside a channel's buffer. -/
theorem pcm_block {m : Memory} {c lo n : Nat} (f : Nat → F32) (h : lo + n ≤ 6144) :
    (∀ k, k < n → pcm (writeWords m (pcmAddr c lo) ((List.range n).map f)) c (lo + k) = f k) ∧
      ∀ a, a < pcmAddr c lo ∨ pcmAddr c (lo + n) ≤ a →
        readByte (writeWords m (pcmAddr c lo) ((List.range n).map f)) a = readByte m a := by
  refine ⟨fun k hk => ?_, fun a ha => ?_⟩
  · rw [pcm_writeWords _ _ _ _ _ _ (by simpa using h) (by omega), if_pos (by simp; omega), Nat.add_sub_cancel_left]
    simp [hk]
  · rw [readByte_writeWords, if_neg]
    simp only [List.length_map, List.length_range, pcmAddr] at ha ⊢
    omega

/-- What a legal configuration and a legal subframe say of the block (R132, R136, R200). -/
theorem block_bounds {s : State} (h : ConfigInv s) (hr : Spec.Ready s) (hv : s.subValid = true) (c : BitVec 3) :
    128 ≤ s.subN.toNat ∧ s.subOff.toNat + s.subN.toNat ≤ s.cfgSpf.toNat ∧ s.cfgSpf.toNat ≤ 4096 ∧
      128 ≤ (s.channel c).prevLen.toNat ∧ (s.channel c).prevLen.toNat ≤ s.cfgSpf.toNat := by
  obtain ⟨-, -, -, hcfg, hsub⟩ := h
  obtain ⟨⟨-, -, -, -, hspf, -, hmin⟩, hchan⟩ := hcfg hr.2
  obtain ⟨-, hn, -, hoff, -, -⟩ := hsub hv
  obtain ⟨-, hlo, hhi⟩ := hchan c
  exact ⟨le_trans hmin hn, hoff, hspf, hlo, hhi⟩

theorem isZero_iff (x : F32) : isZero x = true ↔ Spec.Zero x := by
  have h : (x.extractLsb' 0 31).toNat = lowBits x := by simp [lowBits]
  rw [← mag_eq_zero_iff, mag_eq_lowMag, lowMag_eq_zero_iff, isZero, decide_eq_true_iff,
    ← BitVec.toNat_inj, h]
  rfl

/-- P2 (R12): zero inputs give zeros. -/
theorem imdctSample_zero {n : Nat} {xs : List F32} (h : ∀ x ∈ xs, Spec.Zero x) (m : Nat) :
    Spec.Zero (imdctSample n xs m) := by
  have hz : xs.all isZero = true := List.all_eq_true.2 fun x hx => (isZero_iff x).2 (h x hx)
  rw [imdctSample, if_pos hz, withSign_zero]
  split
  · exact .inr rfl
  · exact .inl rfl

/-- Settles O46: the block by `pcm_block`, P2 by `imdctSample_zero`. -/
theorem imdctWritesTheBlock : Obligations.ImdctWritesTheBlock := by
  unfold Obligations.ImdctWritesTheBlock
  refine ⟨by decide, fun s c hr => ?_⟩
  obtain ⟨hchan, hsub, hok⟩ := subframe_checks hr c
    { s with mem := writeWords s.mem (pcmAddr c.toNat s.blockBase)
              ((List.range s.subN.toNat).map (imdctSample s.subN.toNat (s.coefs c))) }
  refine ⟨hchan, hsub, fun hi hc hv => ⟨_, hok hc hv, rfl, ?_⟩⟩
  obtain ⟨-, hoff, hspf, -, -⟩ := block_bounds hi hr hv c
  obtain ⟨hin, hout⟩ := pcm_block (m := s.mem) (c := c.toNat) (lo := s.blockBase) (n := s.subN.toNat)
    (imdctSample s.subN.toNat (s.coefs c)) (by unfold State.blockBase; omega)
  refine ⟨hin, hout, fun hz m hm => ?_⟩
  have hzero : ∀ x ∈ s.coefs c, Spec.Zero x := by
    intro x hx
    obtain ⟨k, hk, rfl⟩ := List.mem_map.1 hx
    exact hz k (List.mem_range.1 hk)
  have h := imdctSample_zero (n := s.subN.toNat) hzero m
  rw [← hin m hm] at h
  exact h

/-- The two samples of a cross-fade at the distance `k` from the ends of an overlap of 2h samples (R200). -/
theorem crossFade_eq (mem : Memory) (c start w : Nat) {k : Nat} (hk : k < w / 2) :
    let a := pcm mem c (start + k)
    let b := pcm mem c (start + (2 * (w / 2) - 1 - k))
    crossFade mem c start w k = fsub (fmul a (win w (2 * (w / 2) - 1 - k))) (fmul b (win w k)) ∧
      crossFade mem c start w (2 * (w / 2) - 1 - k) =
        fadd (fmul a (win w k)) (fmul b (win w (2 * (w / 2) - 1 - k))) := by
  refine ⟨if_pos hk, ?_⟩
  rw [crossFade, if_neg (by omega), show 2 * (w / 2) - 1 - (2 * (w / 2) - 1 - k) = k by omega]

/-- Settles O48: the fades by `pcm_block` and `crossFade_eq`, the window table by `win_roundsReal`. -/
theorem windowCrossFades : Obligations.WindowCrossFades := by
  unfold Obligations.WindowCrossFades
  refine ⟨fun k n hk hn => win_roundsReal hk hn, by decide, fun s c hr => ?_⟩
  intro w h base start
  obtain ⟨hchan, hsub, hok⟩ := subframe_checks hr c
    { s.setChannel c { s.channel c with prevLen := s.subN } with
      mem := writeWords s.mem (pcmAddr c.toNat start) ((List.range (2 * h)).map (crossFade s.mem c.toNat start w)) }
  refine ⟨hchan, hsub, fun hi hc hv => ?_⟩
  obtain ⟨hn, hoff, hspf, hp, hp'⟩ := block_bounds hi hr hv c
  have hw : w = min (s.channel c).prevLen.toNat s.subN.toNat := rfl
  have hh : h = w / 2 := rfl
  have hbase : base = s.cfgSpf.toNat / 2 + s.subOff.toNat := rfl
  have hstart : start = base - h := rfl
  have hblock : start + 2 * h ≤ 3 * s.cfgSpf.toNat / 2 := by omega
  obtain ⟨hin, hout⟩ := pcm_block (m := s.mem) (c := c.toNat) (lo := start) (n := 2 * h)
    (crossFade s.mem c.toNat start w) (by omega)
  refine ⟨by omega, by omega, hblock, _, hok hc hv, rfl, State.channel_setChannel_self s c _, fun d hd => ?_,
    fun k hk => ?_, hout⟩
  · exact (State.channel_setChannel s c d _).trans (if_neg (by tauto))
  · obtain ⟨h₁, h₂⟩ := crossFade_eq s.mem c.toNat start w hk
    rw [Nat.add_sub_assoc (by omega), Nat.add_sub_assoc (by omega)]
    exact ⟨(hin k (by omega)).trans h₁, (hin _ (by omega)).trans h₂⟩

end Sys2Proof.Machine
end

section
/-! SUPPORT. The frame of every command, said once as one record equality per command (R24-R43): what is not listed for
a command stays as it was. -/

namespace Sys2Proof.Machine

theorem State.setChannel_channel (s : State) (c : BitVec 3) : s.setChannel c (s.channel c) = s := by
  simp [State.setChannel, State.channel]

theorem State.setGroup_group (s : State) (g : BitVec 3) : s.setGroup g (s.group g) = s := by
  simp [State.setGroup, State.group]

theorem State.setTable_table (s : State) (t : BitVec 4) : s.setTable t (s.table t) = s := by
  simp [State.setTable, State.table]

theorem channel_eq_of_set {s u v : State} {c : BitVec 3} {r : Channel} (h : u = v)
    (hv : v.chan = (s.setChannel c r).chan) : u.channel c = r := by
  rw [h, State.channel_congr hv, State.channel_setChannel_self]

theorem group_eq_of_set {s u v : State} {g : BitVec 3} {r : Group} (h : u = v)
    (hv : v.grp = (s.setGroup g r).grp) : u.group g = r := by
  rw [h, State.group_congr hv, State.group_setGroup_self]

theorem table_eq_of_set {s u v : State} {t : BitVec 4} {r : VlcStatus} (h : u = v)
    (hv : v.vlc = (s.setTable t r).vlc) : u.table t = r := by
  rw [h, State.table_congr hv, State.table_setTable_self]

/-- `s` after a command that completed in `u` and wrote no register but the latch (R24, R224). -/
def State.latched (s u : State) : State :=
  { s with busy := false, done := true, err := u.err, errCmd := u.errCmd, errInfo := u.errInfo }

/-- `s` with the latch and everything a command may write taken from `u` (the "Only … writes" sentences of R27-R43). -/
def State.written (s u : State) : Instr → State
  | .nop | .errClr => s.latched u
  | .brInit => { s.latched u with brStart := u.brStart, brLen := u.brLen, brPos := u.brPos }
  | .brRead _ => { s.latched u with res0 := u.res0, brPos := u.brPos }
  | .brPeek _ | .brTell => { s.latched u with res0 := u.res0 }
  | .brSkip _ => { s.latched u with brPos := u.brPos }
  | .brVlc _ => { s.latched u with res0 := u.res0, res1 := u.res1, brPos := u.brPos }
  | .vlcBegin t _ | .vlcEnd t => (s.latched u).setTable t (u.table t)
  | .vlcAdd t => { (s.latched u).setTable t (u.table t) with vlcRam := u.vlcRam }
  | .grpSet g => (s.latched u).setGroup g (u.group g)
  | .mxIdent g | .mxMs45 g | .mxWrite g _ _ | .mxRot g =>
    (s.latched u).setGroup g { s.group g with mat := (u.group g).mat }
  | .mxAng g _ _ => (s.latched u).setGroup g { s.group g with ang := (u.group g).ang }
  | .mxSigns g _ => (s.latched u).setGroup g { s.group g with sgn := (u.group g).sgn }
  | .subSet _ =>
    { s.latched u with subN := u.subN, subOff := u.subOff, subNb := u.subNb, subValid := u.subValid }
  | .sfbSet _ => { s.latched u with sfb := u.sfb }
  | .qsSet => { s.latched u with qstep := u.qstep }
  | .chQset c => (s.latched u).setChannel c { s.channel c with
      qmod := (u.channel c).qmod, sfstep := (u.channel c).sfstep, maxsf := (u.channel c).maxsf }
  | .sfSet c _ => (s.latched u).setChannel c { s.channel c with sf := (u.channel c).sf }
  | .prevSet c => (s.latched u).setChannel c { s.channel c with prevLen := (u.channel c).prevLen }
  | .window c =>
    { (s.latched u).setChannel c { s.channel c with prevLen := (u.channel c).prevLen } with mem := u.mem }
  | .coefClr _ | .dequant _ | .imdct _ | .pcmZero _ | .outEmit | .mxApply _ => { s.latched u with mem := u.mem }
  | .remapSet => { s.latched u with remap6 := u.remap6 }
  | .cfg => { s.latched u with
      cfgNch := u.cfgNch, cfgSpf := u.cfgSpf, cfgMaxsub := u.cfgMaxsub, configured := u.configured, chan := u.chan,
      grp := u.grp, sfb := u.sfb, subN := u.subN, subOff := u.subOff, subNb := u.subNb, subValid := u.subValid,
      qstep := u.qstep, mem := u.mem }

/-- A dropped or failing command writes only the latch (R223, R224). -/
theorem Ended.eq_latched {s u : State} (h : Ended s u) : u = s.latched u := by
  obtain ⟨-, rfl⟩ | ⟨-, e, rfl⟩ := h <;> rfl

theorem Ended.eq_written {s u : State} (h : Ended s u) (i : Instr) : u = s.written u i := by
  have hu : u = s.latched u := h.eq_latched
  have hchan (c : BitVec 3) : u.channel c = s.channel c := by rw [hu]; rfl
  have hgrp (g : BitVec 3) : u.group g = s.group g := by rw [hu]; rfl
  have htab (t : BitVec 4) : u.table t = s.table t := by rw [hu]; rfl
  have hc (c : BitVec 3) : (s.latched u).setChannel c (s.channel c) = u := (State.setChannel_channel _ c).trans hu.symm
  have hg (g : BitVec 3) : (s.latched u).setGroup g (s.group g) = u := (State.setGroup_group _ g).trans hu.symm
  have ht (t : BitVec 4) : (s.latched u).setTable t (s.table t) = u := (State.setTable_table _ t).trans hu.symm
  cases i <;> simp only [State.written, hchan, hgrp, htab, hc, hg, ht] <;> rw [hu] <;> rfl

/-- The frame of every command. -/
theorem exec_frame {i : Instr} {s u : State} (h : exec i s = .next u) : u = s.written u i := by
  cases i with
  | nop => exact (execNop_cases h).elim (·.eq_written _) fun ⟨_, hu⟩ => by rw [hu]; rfl
  | brInit => exact (execBrInit_cases h).elim (·.eq_written _) fun ⟨_, _, _, hu⟩ => by rw [hu]; rfl
  | brRead n => exact (execBrRead_cases h).elim (·.eq_written _) fun ⟨_, _, _, hu⟩ => by rw [hu]; rfl
  | brPeek n => exact (execBrPeek_cases h).elim (·.eq_written _) fun ⟨_, _, _, hu⟩ => by rw [hu]; rfl
  | brSkip n => exact (execBrSkip_cases h).elim (·.eq_written _) fun ⟨_, _, hu⟩ => by rw [hu]; rfl
  | brTell => exact (execBrTell_cases h).elim (·.eq_written _) fun ⟨_, hu⟩ => by rw [hu]; rfl
  | brVlc t => exact (execBrVlc_cases h).elim (·.eq_written _) fun ⟨_, _, _, _, hu⟩ => by rw [hu]; rfl
  | vlcBegin t m =>
    exact (execVlcBegin_cases h).elim (·.eq_written _) fun ⟨_, _, _, hu⟩ => by
      rw [State.written, table_eq_of_set (s := s) hu rfl, hu]; rfl
  | vlcAdd t =>
    exact (execVlcAdd_cases h).elim (·.eq_written _) fun ⟨_, _, _, _, _, _, hu⟩ => by
      rw [State.written, table_eq_of_set (s := s) hu rfl, hu]; rfl
  | vlcEnd t =>
    exact (execVlcEnd_cases h).elim (·.eq_written _) fun ⟨_, _, _, _, hu⟩ => by
      rw [State.written, table_eq_of_set (s := s) hu rfl, hu]; rfl
  | grpSet g =>
    exact (execGrpSet_cases h).elim (·.eq_written _) fun ⟨_, _, _, _, _, _, hu⟩ => by
      rw [State.written, group_eq_of_set (s := s) hu rfl, hu]; rfl
  | mxIdent g =>
    exact (execMxIdent_cases h).elim (·.eq_written _) fun ⟨_, _, _, hu⟩ => by
      rw [State.written, group_eq_of_set (s := s) hu rfl, hu]; rfl
  | mxMs45 g =>
    exact (execMxMs45_cases h).elim (·.eq_written _) fun ⟨_, _, _, hu⟩ => by
      rw [State.written, group_eq_of_set (s := s) hu rfl, hu]; rfl
  | mxWrite g x y =>
    exact (execMxWrite_cases h).elim (·.eq_written _) fun ⟨_, _, _, _, hu⟩ => by
      rw [State.written, group_eq_of_set (s := s) hu rfl, hu]; rfl
  | mxAng g k a =>
    exact (execMxAng_cases h).elim (·.eq_written _) fun ⟨_, _, _, hu⟩ => by
      rw [State.written, group_eq_of_set (s := s) hu rfl, hu]; rfl
  | mxSigns g sg =>
    exact (execMxSigns_cases h).elim (·.eq_written _) fun ⟨_, _, _, _, hu⟩ => by
      rw [State.written, group_eq_of_set (s := s) hu rfl, hu]; rfl
  | mxRot g =>
    exact (execMxRot_cases h).elim (·.eq_written _) fun ⟨_, _, _, hu⟩ => by
      rw [State.written, group_eq_of_set (s := s) hu rfl, hu]; rfl
  | mxApply g => exact (execMxApply_cases h).elim (·.eq_written _) fun ⟨_, _, _, _, _, hu⟩ => by rw [hu]; rfl
  | subSet nb => exact (execSubSet_cases h).elim (·.eq_written _) fun ⟨_, _, _, _, _, _, _, _, hu⟩ => by rw [hu]; rfl
  | sfbSet b => exact (execSfbSet_cases h).elim (·.eq_written _) fun ⟨_, _, _, _, hu⟩ => by rw [hu]; rfl
  | qsSet => exact (execQsSet_cases h).elim (·.eq_written _) fun ⟨_, _, _, hu⟩ => by rw [hu]; rfl
  | chQset c =>
    exact (execChQset_cases h).elim (·.eq_written _) fun ⟨_, _, _, _, _, _, hu⟩ => by
      rw [State.written, channel_eq_of_set (s := s) hu rfl, hu]; rfl
  | sfSet c b =>
    exact (execSfSet_cases h).elim (·.eq_written _) fun ⟨_, _, _, _, hu⟩ => by
      rw [State.written, channel_eq_of_set (s := s) hu rfl, hu]; rfl
  | coefClr c => exact (execCoefClr_cases h).elim (·.eq_written _) fun ⟨_, _, _, hu⟩ => by rw [hu]; rfl
  | dequant c => exact (execDequant_cases h).elim (·.eq_written _) fun ⟨_, _, _, _, _, _, hu⟩ => by rw [hu]; rfl
  | imdct c => exact (execImdct_cases h).elim (·.eq_written _) fun ⟨_, _, _, _, hu⟩ => by rw [hu]; rfl
  | window c =>
    exact (execWindow_cases h).elim (·.eq_written _) fun ⟨_, _, _, _, _, _, hu⟩ => by
      rw [State.written, channel_eq_of_set (s := s) hu rfl, hu]; rfl
  | pcmZero c => exact (execPcmZero_cases h).elim (·.eq_written _) fun ⟨_, _, _, _, hu⟩ => by rw [hu]; rfl
  | prevSet c =>
    exact (execPrevSet_cases h).elim (·.eq_written _) fun ⟨_, _, _, _, _, _, hu⟩ => by
      rw [State.written, channel_eq_of_set (s := s) hu rfl, hu]; rfl
  | outEmit => exact (execOutEmit_cases h).elim (·.eq_written _) fun ⟨_, _, hu⟩ => by rw [hu]; rfl
  | remapSet => exact (execRemapSet_cases h).elim (·.eq_written _) fun ⟨_, _, hu⟩ => by rw [hu]; rfl
  | cfg => exact (execCfg_cases h).elim (·.eq_written _) fun ⟨_, _, _, _, _, _, _, _, hu⟩ => by rw [hu]; rfl
  | errClr => rw [execErrClr_cases h]; rfl

/-! The fields of the frame, block by block. -/

/-- The host's side of the state (R24, R26): BUSY and DONE as a completion leaves them, the rest as before. -/
theorem State.written_keeps_host (s u : State) (i : Instr) :
    (s.written u i).busy = false ∧ (s.written u i).done = true ∧ (s.written u i).lastCmd = s.lastCmd ∧
    (s.written u i).arg0 = s.arg0 ∧ (s.written u i).arg1 = s.arg1 ∧ (s.written u i).arg2 = s.arg2 ∧
    (s.written u i).haz = s.haz ∧ (s.written u i).ieDone = s.ieDone ∧ (s.written u i).ieErr = s.ieErr ∧
    (s.written u i).host = s.host ∧ (s.written u i).reads = s.reads := by
  cases i <;> exact ⟨rfl, rfl, rfl, rfl, rfl, rfl, rfl, rfl, rfl, rfl, rfl⟩

theorem exec_keeps_host {i : Instr} {s u : State} (h : exec i s = .next u) :
    u.busy = false ∧ u.done = true ∧ u.lastCmd = s.lastCmd ∧ u.arg0 = s.arg0 ∧ u.arg1 = s.arg1 ∧
    u.arg2 = s.arg2 ∧ u.haz = s.haz ∧ u.ieDone = s.ieDone ∧ u.ieErr = s.ieErr ∧ u.host = s.host ∧
    u.reads = s.reads := by
  rw [exec_frame h]
  exact s.written_keeps_host u i

/-- The registers that stand alone (R27-R31, R33) and the entry RAM (R39). -/
theorem exec_writes_register {i : Instr} {s u : State} (h : exec i s = .next u) :
    (u.res0 ≠ s.res0 → (∃ n, i = .brRead n ∨ i = .brPeek n) ∨ i = .brTell ∨ ∃ t, i = .brVlc t) ∧
    (u.res1 ≠ s.res1 → ∃ t, i = .brVlc t) ∧
    (u.brStart ≠ s.brStart ∨ u.brLen ≠ s.brLen → i = .brInit) ∧
    (u.brPos ≠ s.brPos → i = .brInit ∨ (∃ n, i = .brRead n ∨ i = .brSkip n) ∨ ∃ t, i = .brVlc t) ∧
    (u.cfgNch ≠ s.cfgNch ∨ u.cfgSpf ≠ s.cfgSpf ∨ u.cfgMaxsub ≠ s.cfgMaxsub ∨ u.configured ≠ s.configured →
      i = .cfg) ∧
    (u.remap6 ≠ s.remap6 → i = .remapSet) ∧
    (u.subN ≠ s.subN ∨ u.subOff ≠ s.subOff ∨ u.subNb ≠ s.subNb ∨ u.subValid ≠ s.subValid →
      i = .cfg ∨ ∃ nb, i = .subSet nb) ∧
    (u.qstep ≠ s.qstep → i = .cfg ∨ i = .qsSet) ∧
    (u.sfb ≠ s.sfb → i = .cfg ∨ ∃ b, i = .sfbSet b) ∧
    (u.vlcRam ≠ s.vlcRam → ∃ t, i = .vlcAdd t) := by
  have hf := exec_frame h
  cases i <;> rw [hf] <;> simp [State.written, State.latched]

theorem channel_of_set {s u : State} {c : BitVec 3} {r : Channel} (h : u.chan = (s.setChannel c r).chan)
    (d : BitVec 3) : d = c ∧ u.channel d = r ∨ u.channel d = s.channel d := by
  rw [State.channel_congr h, State.channel_setChannel]
  split
  · exact .inl ⟨by assumption, rfl⟩
  · exact .inr rfl

theorem group_of_set {s u : State} {g : BitVec 3} {r : Group} (h : u.grp = (s.setGroup g r).grp)
    (d : BitVec 3) : d = g ∧ u.group d = r ∨ u.group d = s.group d := by
  rw [State.group_congr h, State.group_setGroup]
  split
  · exact .inl ⟨by assumption, rfl⟩
  · exact .inr rfl

theorem table_of_set {s u : State} {t : BitVec 4} {r : VlcStatus} (h : u.vlc = (s.setTable t r).vlc)
    (d : BitVec 4) : d = t ∧ u.table d = r ∨ u.table d = s.table d := by
  rw [State.table_congr h, State.table_setTable]
  split
  · exact .inl ⟨by assumption, rfl⟩
  · exact .inr rfl

/-- The registers of a channel (R32, R34). -/
theorem exec_channel_cases {i : Instr} {s u : State} (h : exec i s = .next u) (d : BitVec 3) :
    i = .cfg ∨ u.channel d = s.channel d ∨
    (i = .chQset d ∧ u.channel d = { s.channel d with
      qmod := (u.channel d).qmod, sfstep := (u.channel d).sfstep, maxsf := (u.channel d).maxsf }) ∨
    ((∃ b, i = .sfSet d b) ∧ u.channel d = { s.channel d with sf := (u.channel d).sf }) ∨
    ((i = .window d ∨ i = .prevSet d) ∧ u.channel d = { s.channel d with prevLen := (u.channel d).prevLen }) := by
  have hc := congrArg State.chan (exec_frame h)
  cases i with
  | cfg => exact .inl rfl
  | chQset c =>
    obtain ⟨rfl, hd⟩ | hd := channel_of_set hc d
    · exact .inr (.inr (.inl ⟨rfl, hd⟩))
    · exact .inr (.inl hd)
  | sfSet c b =>
    obtain ⟨rfl, hd⟩ | hd := channel_of_set hc d
    · exact .inr (.inr (.inr (.inl ⟨⟨b, rfl⟩, hd⟩)))
    · exact .inr (.inl hd)
  | window c | prevSet c =>
    obtain ⟨rfl, hd⟩ | hd := channel_of_set hc d
    · exact .inr (.inr (.inr (.inr ⟨by simp, hd⟩)))
    · exact .inr (.inl hd)
  | _ => exact .inr (.inl (State.channel_congr hc d))

/-- The registers of a group (R35-R37). -/
theorem exec_group_cases {i : Instr} {s u : State} (h : exec i s = .next u) (d : BitVec 3) :
    i = .cfg ∨ i = .grpSet d ∨ u.group d = s.group d ∨
    ((∃ sg, i = .mxSigns d sg) ∧ u.group d = { s.group d with sgn := (u.group d).sgn }) ∨
    ((∃ k a, i = .mxAng d k a) ∧ u.group d = { s.group d with ang := (u.group d).ang }) ∨
    ((i = .mxIdent d ∨ i = .mxMs45 d ∨ (∃ x y, i = .mxWrite d x y) ∨ i = .mxRot d) ∧
      u.group d = { s.group d with mat := (u.group d).mat }) := by
  have hg := congrArg State.grp (exec_frame h)
  cases i with
  | cfg => exact .inl rfl
  | grpSet g =>
    obtain ⟨rfl, -⟩ | hd := group_of_set hg d
    · exact .inr (.inl rfl)
    · exact .inr (.inr (.inl hd))
  | mxSigns g sg =>
    obtain ⟨rfl, hd⟩ | hd := group_of_set hg d
    · exact .inr (.inr (.inr (.inl ⟨⟨sg, rfl⟩, hd⟩)))
    · exact .inr (.inr (.inl hd))
  | mxAng g k a =>
    obtain ⟨rfl, hd⟩ | hd := group_of_set hg d
    · exact .inr (.inr (.inr (.inr (.inl ⟨⟨k, a, rfl⟩, hd⟩))))
    · exact .inr (.inr (.inl hd))
  | mxIdent g | mxMs45 g | mxRot g | mxWrite g =>
    obtain ⟨rfl, hd⟩ | hd := group_of_set hg d
    · exact .inr (.inr (.inr (.inr (.inr ⟨by simp, hd⟩))))
    · exact .inr (.inr (.inl hd))
  | _ => exact .inr (.inr (.inl (State.group_congr hg d)))

/-- The registers of a VLC table (R38). -/
theorem exec_table_cases {i : Instr} {s u : State} (h : exec i s = .next u) (d : BitVec 4) :
    u.table d = s.table d ∨ (∃ m, i = .vlcBegin d m) ∨ i = .vlcAdd d ∨ i = .vlcEnd d := by
  have ht := congrArg State.vlc (exec_frame h)
  cases i with
  | vlcBegin t | vlcAdd t | vlcEnd t =>
    obtain ⟨rfl, -⟩ | hd := table_of_set ht d
    · exact .inr (by simp)
    · exact .inl hd
  | _ => exact .inl (State.table_congr ht d)

/-- Who writes which register of a channel (R32, R34). -/
theorem exec_writes_channel {i : Instr} {s u : State} (h : exec i s = .next u) (c : BitVec 3) :
    ((u.channel c).prevLen ≠ (s.channel c).prevLen → i = .cfg ∨ i = .window c ∨ i = .prevSet c) ∧
    ((u.channel c).qmod ≠ (s.channel c).qmod ∨ (u.channel c).sfstep ≠ (s.channel c).sfstep ∨
      (u.channel c).maxsf ≠ (s.channel c).maxsf → i = .cfg ∨ i = .chQset c) ∧
    ((u.channel c).sf ≠ (s.channel c).sf → i = .cfg ∨ ∃ b, i = .sfSet c b) := by
  obtain hi | e | ⟨hi, e⟩ | ⟨hi, e⟩ | ⟨hi, e⟩ := exec_channel_cases h c
  · exact ⟨fun _ => .inl hi, fun _ => .inl hi, fun _ => .inl hi⟩
  · simp [e]
  all_goals
    rw [e]
    simp [hi]

/-- Who writes which register of a group (R35-R37). -/
theorem exec_writes_group {i : Instr} {s u : State} (h : exec i s = .next u) (g : BitVec 3) :
    ((u.group g).ch ≠ (s.group g).ch ∨ (u.group g).size ≠ (s.group g).size ∨
      (u.group g).offscale ≠ (s.group g).offscale ∨ (u.group g).mask ≠ (s.group g).mask →
      i = .cfg ∨ i = .grpSet g) ∧
    ((u.group g).sgn ≠ (s.group g).sgn → i = .cfg ∨ i = .grpSet g ∨ ∃ sg, i = .mxSigns g sg) ∧
    ((u.group g).ang ≠ (s.group g).ang → i = .cfg ∨ i = .grpSet g ∨ ∃ k a, i = .mxAng g k a) ∧
    ((u.group g).mat ≠ (s.group g).mat → i = .cfg ∨ i = .grpSet g ∨ i = .mxIdent g ∨ i = .mxMs45 g ∨
      (∃ x y, i = .mxWrite g x y) ∨ i = .mxRot g) := by
  obtain hi | hi | e | ⟨hi, e⟩ | ⟨hi, e⟩ | ⟨hi, e⟩ := exec_group_cases h g
  · exact ⟨fun _ => .inl hi, fun _ => .inl hi, fun _ => .inl hi, fun _ => .inl hi⟩
  · exact ⟨fun _ => .inr hi, fun _ => .inr (.inl hi), fun _ => .inr (.inl hi), fun _ => .inr (.inl hi)⟩
  · simp [e]
  all_goals
    rw [e]
    simp [hi]

/-- Settles O20: the registers that stand alone by `exec_writes_register`, the others block by block. -/
theorem onlyTheirCommandsWriteRegisters : Obligations.OnlyTheirCommandsWriteRegisters := by
  unfold Obligations.OnlyTheirCommandsWriteRegisters
  intro s u i h
  obtain ⟨hres0, hres1, hwin, hpos, hcfg, hremap, hsub, hqstep, hsfb, hram⟩ := exec_writes_register h
  refine ⟨hres0, hres1, hwin, hpos, hcfg, hremap, hsub, hqstep, hsfb, fun c => ?prevLen, fun c => ?quant,
    fun c => ?scaleFactors, fun g => ?group, fun g => ?signs, fun g => ?angles, fun g => ?matrix,
    fun t ht => (exec_table_cases h t).resolve_left ht, hram⟩
  case prevLen => obtain ⟨hprev, -, -⟩ := exec_writes_channel h c; exact hprev
  case quant => obtain ⟨-, hq, -⟩ := exec_writes_channel h c; exact hq
  case scaleFactors => obtain ⟨-, -, hsf⟩ := exec_writes_channel h c; exact hsf
  case group => obtain ⟨hgrp, -, -, -⟩ := exec_writes_group h g; exact hgrp
  case signs => obtain ⟨-, hsgn, -, -⟩ := exec_writes_group h g; exact hsgn
  case angles => obtain ⟨-, -, hang, -⟩ := exec_writes_group h g; exact hang
  case matrix => obtain ⟨-, -, -, hmat⟩ := exec_writes_group h g; exact hmat

end Sys2Proof.Machine
end

section
/-! SUPPORT. The reset state has every invariant (R46, R251). -/

namespace Sys2Proof.Machine

theorem State.reset_channel (c : BitVec 3) : State.reset.channel c = Channel.reset := by
  simp [State.channel, State.reset]

theorem State.reset_group (g : BitVec 3) : State.reset.group g = Group.reset := by
  simp [State.group, State.reset]

theorem State.reset_table (t : BitVec 4) : State.reset.table t = VlcStatus.reset := by
  simp [State.table, State.reset]

/-- A cleared list of boundaries, after reset and after CFG (R132, R251). -/
theorem State.bound_of_cleared {s : State} (h : s.sfb = Vector.replicate 33 0) (b : Nat) : s.bound b = 0 := by
  by_cases hb : b < 33 <;> simp [State.bound, Vector.getD, h, hb]

theorem matGet_zero (i j : Nat) : matGet Matrix.zero i j = 0 := by
  by_cases h : i < 8 ∧ j < 8
  · rw [matGet_eq _ h.1 h.2]; simp [Matrix.zero]
  · exact matGet_of_ge _ (by omega)

theorem nibble_zero (k : Nat) : nibble 0 k = 0 := by simp [nibble]

/-- A group that is not set is legal for every number of channels (R159). -/
theorem groupOk_reset (nch : Nat) : GroupOk nch Group.reset := by
  have hcount : Group.reset.count = 0 := rfl
  refine ⟨by omega, fun k hk => by omega, fun k _ => nibble_zero k, fun k _ hk => by omega,
    fun h => absurd h (by decide), ?_, fun i j _ => matGet_zero i j⟩
  rw [hcount]
  decide

theorem reset_statusInv : StatusInv State.reset :=
  ⟨rfl, by decide, fun _ => ⟨rfl, rfl⟩, fun t => by rw [State.reset_table]; decide⟩

theorem reset_bitReaderInv : BitReaderInv State.reset := ⟨by decide, by decide⟩

theorem reset_vlcInv : VlcInv State.reset := by
  refine ⟨rfl, fun t => ?_⟩
  rw [State.reset_table]
  exact ⟨fun _ => ⟨rfl, rfl⟩, fun h => absurd rfl h, by decide, by decide, fun e he => absurd he (Nat.not_lt_zero e),
    fun h => absurd h (by decide)⟩

theorem reset_configInv : ConfigInv State.reset :=
  ⟨by decide, fun b => by rw [State.bound_of_cleared rfl]; decide, fun _ => ⟨rfl, rfl, rfl, rfl⟩,
    fun h => absurd h (by decide), fun h => absurd h (by decide)⟩

theorem reset_groupInv : GroupInv State.reset :=
  ⟨by decide, fun g => by rw [State.reset_group]; exact groupOk_reset _⟩

theorem reset_extentInv : ExtentInv State.reset := fun _ _ => rfl

/-- Settles O60, invariant by invariant. -/
theorem resetHasTheInvariants : Obligations.ResetHasTheInvariants :=
  ⟨reset_statusInv, reset_mem_wf, reset_bitReaderInv, reset_vlcInv, reset_configInv, reset_groupInv, reset_extentInv⟩

end Sys2Proof.Machine
end

section
/-! SUPPORT. The bit reader's window and cursor (R29) and the VLC tables (R38, R39, R106-R109) under every step. -/

namespace Sys2Proof.Machine

/-! The window and the cursor (R29). -/

/-- An entry that BR_VLC matches is no longer than the limit (R106). -/
theorem State.vlcMatch_len_le {s : State} {es : List VlcEntry} {limit : Nat} {e : VlcEntry}
    (h : s.vlcMatch es limit = some e) : e.len.toNat ≤ limit := by
  obtain ⟨l, hl, hf⟩ := List.exists_of_findSome?_eq_some h
  have hlen := List.find?_some hf
  simp only [Bool.and_eq_true, beq_iff_eq] at hlen
  obtain ⟨-, hhi⟩ := List.mem_range'_1.1 hl
  omega

/-- A move of the cursor inside the window. -/
theorem BitReaderInv.advance {s u : State} (h : BitReaderInv s) {d : BitVec 20} {n : Nat} (hd : d.toNat = n % 2 ^ 20)
    (hn : s.brPos.toNat + n ≤ s.brLen.toNat) (hstart : u.brStart = s.brStart) (hlen : u.brLen = s.brLen)
    (hpos : u.brPos = s.brPos + d) : BitReaderInv u := by
  obtain ⟨hwin, -⟩ := h
  have hlt := s.brLen.isLt
  have e : u.brPos.toNat = s.brPos.toNat + n := by rw [hpos, BitVec.toNat_add, hd]; omega
  rw [BitReaderInv, hstart, hlen, e]
  exact ⟨hwin, hn⟩

theorem bitReaderInv_exec {i : Instr} {s u : State} (hs : BitReaderInv s) (h : exec i s = .next u) :
    BitReaderInv u := by
  have hf := exec_frame h
  have hend (he : Ended s u) : BitReaderInv u := by rw [he.eq_latched]; exact hs
  cases i with
  | brInit =>
    obtain he | ⟨h₁, h₂, -, rfl⟩ := execBrInit_cases h
    · exact hend he
    · simp only [BitReaderInv, State.complete_brStart, State.complete_brLen, State.complete_brPos,
        BitVec.toNat_setWidth, Config.bbufBits]
      exact ⟨by omega, by simp⟩
  | brRead n =>
    obtain he | ⟨-, hn, -, rfl⟩ := execBrRead_cases h
    · exact hend he
    · exact hs.advance (BitVec.toNat_ofNat _ _) hn rfl rfl rfl
  | brSkip n =>
    obtain he | ⟨hn, -, rfl⟩ := execBrSkip_cases h
    · exact hend he
    · exact hs.advance (BitVec.toNat_ofNat _ _) hn rfl rfl rfl
  | brVlc t =>
    obtain he | ⟨-, e, hm, -, rfl⟩ := execBrVlc_cases h
    · exact hend he
    · have hlen := State.vlcMatch_len_le hm
      have hpos : s.brPos.toNat ≤ s.brLen.toNat := hs.2
      exact hs.advance (BitVec.toNat_setWidth _ _) (by omega) rfl rfl rfl
  | _ => rw [hf]; exact hs

/-- Settles O56: only BR_INIT, BR_READ, BR_SKIP and BR_VLC write the window or the cursor, each inside its bounds. -/
theorem stepKeepsBitReaderInv : Obligations.StepKeepsBitReaderInv := by
  unfold Obligations.StepKeepsBitReaderInv
  intro s u hs h
  exact step_keeps (P := BitReaderInv) (fun s u hp hu => by rw [hu]; exact hp) reset_bitReaderInv (fun _ _ _ hp _ => hp)
    (fun _ _ hp => hp) (fun i s u hp hx => bitReaderInv_exec hp hx) hs h

/-! The VLC tables (R38, R39, R106-R109). -/

/-- What `VlcInv` says of table `t`. -/
def TableOk (s : State) (t : BitVec 4) : Prop :=
  ((s.table t).state = 0 → (s.table t).maxlen = 0 ∧ (s.table t).count = 0) ∧
  ((s.table t).state ≠ 0 → 1 ≤ (s.table t).maxlen.toNat) ∧
  (s.table t).maxlen.toNat ≤ Config.vlcMaxLen ∧
  (s.table t).count.toNat ≤ Config.vlcMaxEntries ∧
  (∀ e, e < (s.table t).count.toNat → EntryOk (s.table t).maxlen.toNat (s.vlcEntry t e)) ∧
  ((s.table t).state = 2 → 1 ≤ (s.table t).count.toNat ∧ PrefixFreeTable s t)

theorem vlcInv_iff (s : State) : VlcInv s ↔ storeWf VlcEntry.zero s.vlcRam = true ∧ ∀ t, TableOk s t := Iff.rfl

/-- A table is legal by its registers and its entries e < COUNT alone (R39). -/
theorem TableOk.congr {s u : State} {t : BitVec 4} (h : TableOk s t) (ht : u.table t = s.table t)
    (he : ∀ e, e < (s.table t).count.toNat → u.vlcEntry t e = s.vlcEntry t e) : TableOk u t := by
  obtain ⟨h₀, h₁, hmax, hcount, hentry, hvalid⟩ := h
  rw [TableOk, ht]
  refine ⟨h₀, h₁, hmax, hcount, fun e hlt => by rw [he e hlt]; exact hentry e hlt, fun h₂ => ⟨(hvalid h₂).1, ?_⟩⟩
  intro e f hlt hlt' hne
  rw [ht] at hlt hlt'
  rw [he e hlt, he f hlt']
  exact (hvalid h₂).2 e f hlt hlt' hne

/-- Tables other than the one a command names stay legal while the entry RAM stays. -/
theorem TableOk.congr_ram {s u : State} {t : BitVec 4} (h : TableOk s t) (ht : u.table t = s.table t)
    (hram : u.vlcRam = s.vlcRam) : TableOk u t :=
  h.congr ht fun e _ => by rw [State.vlcEntry, hram, State.vlcEntry]

/-- An entry after one entry is written: entries of tables do not overlap in the RAM (R39). -/
theorem State.vlcEntry_write {s u : State} {t : BitVec 4} {n : Nat} {x : VlcEntry} (hn : n < 512)
    (h : u.vlcRam = storeWrite VlcEntry.zero s.vlcRam (vlcKey t n) [x]) (t' : BitVec 4) {e : Nat} (he : e < 512) :
    u.vlcEntry t' e = if t' = t ∧ e = n then x else s.vlcEntry t' e := by
  rw [State.vlcEntry, h, storeGet_write, State.vlcEntry]
  by_cases hk : t' = t ∧ e = n
  · obtain ⟨rfl, rfl⟩ := hk
    simp
  · have hne : vlcKey t' e ≠ vlcKey t n := by
      intro heq
      simp only [vlcKey, Config.vlcMaxEntries] at heq
      exact hk ⟨BitVec.eq_of_toNat_eq (by omega), by omega⟩
    rw [if_neg hk, if_neg (by simp only [List.length_singleton]; omega)]

theorem prefixFree_iff (es : List VlcEntry) :
    prefixFree es = true ↔ es.Pairwise fun e f => isPrefix e f = false ∧ isPrefix f e = false := by
  induction es with
  | nil => simp [prefixFree]
  | cons e rest ih => simp [prefixFree, ih]

/-- The check of VLC_END (R109) on the entries e < COUNT. -/
theorem prefixFreeTable_of_check {s : State} {t : BitVec 4} (h : prefixFree (s.vlcEntries t) = true) :
    PrefixFreeTable s t := by
  rw [prefixFree_iff, State.vlcEntries, List.pairwise_map, List.pairwise_iff_getElem] at h
  have hpair : ∀ a b, a < b → b < (s.table t).count.toNat →
      isPrefix (s.vlcEntry t a) (s.vlcEntry t b) = false ∧ isPrefix (s.vlcEntry t b) (s.vlcEntry t a) = false := by
    intro a b hab hb
    have hlen : (List.range (s.table t).count.toNat).length = (s.table t).count.toNat := List.length_range
    have hp := h a b (by omega) (by omega) hab
    rwa [List.getElem_range, List.getElem_range] at hp
  intro e f he hf hne hle heq
  have hpre : isPrefix (s.vlcEntry t e) (s.vlcEntry t f) = false := by
    rcases Nat.lt_or_gt_of_ne hne with hlt | hlt
    · exact (hpair e f hlt hf).1
    · exact (hpair f e hlt he).2
  rw [Nat.shiftRight_eq_div_pow] at heq
  simp [isPrefix, hle, heq] at hpre

theorem Ended.vlcInv {s u : State} (h : Ended s u) (hs : VlcInv s) : VlcInv u := by
  rw [h.eq_latched]; exact hs

/-- An empty table (R107). -/
theorem vlcInv_execVlcBegin {t : BitVec 4} {m : Nat} {s u : State} (hs : VlcInv s) (h : execVlcBegin t m s = .next u) :
    VlcInv u := by
  obtain ⟨hwf, htab⟩ := (vlcInv_iff s).1 hs
  obtain he | ⟨h₁, h₂, -, hu⟩ := execVlcBegin_cases h
  · exact he.vlcInv hs
  have hram : u.vlcRam = s.vlcRam := by rw [hu]; rfl
  have hvlc := congrArg State.vlc hu
  refine (vlcInv_iff u).2 ⟨hram ▸ hwf, fun d => ?_⟩
  obtain ⟨rfl, hd⟩ | hd := table_of_set hvlc d
  · have hm : (BitVec.ofNat 6 m).toNat = m := by rw [BitVec.toNat_ofNat]; omega
    rw [TableOk, hd]
    refine ⟨fun h => absurd h (by simp), fun _ => by rw [hm]; exact h₁, by rw [hm]; exact h₂, by simp,
      fun e he => absurd he (Nat.not_lt_zero e), fun h => absurd h (by simp)⟩
  · exact (htab d).congr_ram hd hram

/-- One entry more, at e = COUNT (R108). -/
theorem vlcInv_execVlcAdd {t : BitVec 4} {s u : State} (hs : VlcInv s) (h : execVlcAdd t s = .next u) :
    VlcInv u := by
  obtain ⟨hwf, htab⟩ := (vlcInv_iff s).1 hs
  obtain he | ⟨hstate, h₁, h₂, hcode, hfull, -, hu⟩ := execVlcAdd_cases h
  · exact he.vlcInv hs
  have hram := congrArg State.vlcRam hu
  have hvlc := congrArg State.vlc hu
  obtain ⟨-, -, hmax, hcount, hentry, -⟩ := htab t
  replace hcount : (s.table t).count.toNat ≤ 512 := hcount
  refine (vlcInv_iff u).2 ⟨hram ▸ storeWf_write _ _ _ hwf, fun d => ?_⟩
  have hget := fun e (he : e < 512) => State.vlcEntry_write (by omega) hram d he
  obtain ⟨rfl, hd⟩ | hd := table_of_set hvlc d
  · have hc : ((s.table d).count + 1).toNat = (s.table d).count.toNat + 1 := by
      rw [BitVec.toNat_add, show (1 : BitVec 10).toNat = 1 from rfl]; omega
    rw [TableOk, hd]
    simp only [hc, hstate]
    refine ⟨fun h => absurd h (by decide), fun _ => le_trans h₁ h₂, hmax,
      Nat.lt_of_le_of_ne hcount hfull, fun e he => ?_, fun h => absurd h (by decide)⟩
    rw [hget e (by omega)]
    by_cases hn : e = (s.table d).count.toNat
    · rw [if_pos ⟨rfl, hn⟩]; exact ⟨h₁, h₂, hcode⟩
    · rw [if_neg fun h => hn h.2]; exact hentry e (by omega)
  · refine (htab d).congr hd fun e he => ?_
    obtain ⟨-, -, -, hle, -, -⟩ := htab d
    replace hle : (s.table d).count.toNat ≤ 512 := hle
    rw [hget e (by omega), if_neg]
    rintro ⟨rfl, rfl⟩
    omega

/-- The entries stay; the check passed (R109). -/
theorem vlcInv_execVlcEnd {t : BitVec 4} {s u : State} (hs : VlcInv s) (h : execVlcEnd t s = .next u) :
    VlcInv u := by
  obtain ⟨hwf, htab⟩ := (vlcInv_iff s).1 hs
  obtain he | ⟨hstate, hne, hpf, -, hu⟩ := execVlcEnd_cases h
  · exact he.vlcInv hs
  have hram : u.vlcRam = s.vlcRam := by rw [hu]; rfl
  have hvlc := congrArg State.vlc hu
  refine (vlcInv_iff u).2 ⟨hram ▸ hwf, fun d => ?_⟩
  obtain ⟨rfl, hd⟩ | hd := table_of_set hvlc d
  · obtain ⟨-, hmin, hmax, hcount, hentry, -⟩ := htab d
    have hold (e : Nat) : u.vlcEntry d e = s.vlcEntry d e := by rw [State.vlcEntry, hram, State.vlcEntry]
    rw [TableOk, hd]
    refine ⟨fun h => absurd h (by simp), fun _ => hmin (by simp [hstate]), hmax, hcount,
      fun e he => by rw [hold]; exact hentry e he, fun _ => ⟨by simp only; omega, ?_⟩⟩
    intro e f
    rw [hold, hold, hd]
    exact prefixFreeTable_of_check hpf e f
  · exact (htab d).congr_ram hd hram

theorem vlcInv_exec {i : Instr} {s u : State} (hs : VlcInv s) (h : exec i s = .next u) : VlcInv u := by
  have hf := exec_frame h
  cases i with
  | vlcBegin t m => exact vlcInv_execVlcBegin hs h
  | vlcAdd t => exact vlcInv_execVlcAdd hs h
  | vlcEnd t => exact vlcInv_execVlcEnd hs h
  | _ => rw [hf]; exact hs

/-- Settles O57: only VLC_BEGIN, VLC_ADD and VLC_END write a table, and each leaves it legal. -/
theorem stepKeepsVlcInv : Obligations.StepKeepsVlcInv := by
  unfold Obligations.StepKeepsVlcInv
  intro s u hs h
  exact step_keeps (P := VlcInv) (fun s u hp hu => by rw [hu]; exact hp) reset_vlcInv (fun _ _ _ hp _ => hp)
    (fun _ _ hp => hp) (fun i s u hp hx => vlcInv_exec hp hx) hs h

end Sys2Proof.Machine
end

section
/-! SUPPORT. The configuration, the subframe and the groups under every step (R30-R37, R132-R142, R159-R168). -/

namespace Sys2Proof.Machine

/-! Nibbles of packed operands (R83). -/

/-- The nibbles below n of a word of which the bits from 4n on are cleared are as before, the others are 0. -/
theorem nibble_of_mod {x y : Word} {n : Nat} (h : y.toNat = x.toNat % 16 ^ n) (k : Nat) :
    nibble y k = if k < n then nibble x k else 0 := by
  unfold nibble
  rw [h]
  split
  · rename_i hk
    obtain ⟨d, rfl⟩ := Nat.exists_eq_add_of_lt hk
    rw [show k + d + 1 = k + (d + 1) by omega, pow_add, Nat.mod_mul_right_div_self,
      Nat.mod_mod_of_dvd _ (dvd_pow_self 16 (by omega))]
  · have hlt : x.toNat % 16 ^ n < 16 ^ k :=
      lt_of_lt_of_le (Nat.mod_lt _ (by positivity)) (Nat.pow_le_pow_right (by decide) (by omega))
    rw [Nat.div_eq_of_lt hlt]

/-- REMAP6 keeps the six nibbles that REMAP_SET checks (R133). -/
theorem isRemap_low24 {x : Word} (h : isRemap x = true) : isRemap ((x.extractLsb' 0 24).setWidth 32) = true := by
  rw [isRemap_iff] at h ⊢
  have hmod : ((x.extractLsb' 0 24).setWidth 32).toNat = x.toNat % 16 ^ 6 := by
    simp
    omega
  intro k hk
  obtain ⟨j, hj, hn⟩ := h k hk
  exact ⟨j, hj, by rw [nibble_of_mod hmod, if_pos hj, hn]⟩

/-! The configuration and the subframe (R30-R33, R132-R142). -/

/-- PREV_LEN is legal for a stream of `spf` samples per frame (R142, R200). -/
def PrevLenOk (spf : Nat) (r : Channel) : Prop :=
  isPow2 r.prevLen.toNat = true ∧ Config.minBlock ≤ r.prevLen.toNat ∧ r.prevLen.toNat ≤ spf

/-- A channel's registers replaced: only PREV_LEN matters. -/
theorem ConfigInv.setChannel {s : State} (hs : ConfigInv s) (c : BitVec 3) {r : Channel}
    (hr : s.configured = true → PrevLenOk s.cfgSpf.toNat r) : ConfigInv (s.setChannel c r) := by
  obtain ⟨hremap, hbound, hun, hcfg, hsub⟩ := hs
  refine ⟨hremap, hbound, hun, fun hc => ⟨(hcfg hc).1, fun d => ?_⟩, hsub⟩
  rw [State.channel_setChannel]
  split
  · exact hr hc
  · exact (hcfg hc).2 d

theorem ConfigInv.prevLenOk {s : State} (hs : ConfigInv s) (hc : s.configured = true) (c : BitVec 3) :
    PrevLenOk s.cfgSpf.toNat (s.channel c) := by
  obtain ⟨-, -, -, hcfg, -⟩ := hs
  exact (hcfg hc).2 c

/-- WINDOW sets PREV_LEN to the length of the subframe (R200). -/
theorem ConfigInv.prevLenOk_subN {s : State} (hs : ConfigInv s) (hc : s.configured = true) (hv : s.subValid = true)
    (c : BitVec 3) : PrevLenOk s.cfgSpf.toNat { s.channel c with prevLen := s.subN } := by
  obtain ⟨-, -, -, hcfg, hsub⟩ := hs
  obtain ⟨⟨-, -, -, -, -, -, hmin⟩, -⟩ := hcfg hc
  obtain ⟨hpow, hn, hspf, -, -, -⟩ := hsub hv
  exact ⟨hpow, le_trans hmin hn, hspf⟩

/-- The length that PREV_SET checks (R142). -/
theorem prevLenOk_of_arg {s : State} {n : Nat} (hpow : isPow2 n = true) (hlo : 128 ≤ n)
    (hhi : n ≤ s.cfgSpf.toNat) (c : BitVec 3) :
    PrevLenOk s.cfgSpf.toNat { s.channel c with prevLen := BitVec.ofNat 13 n } := by
  have hn : (BitVec.ofNat 13 n).toNat = n := by rw [BitVec.toNat_ofNat]; omega
  simp only [PrevLenOk, hn]
  exact ⟨hpow, hlo, hhi⟩

theorem State.bound_setSfb {s u : State} {b : Nat} {v : BitVec 13} (h : u.sfb = s.sfb.setIfInBounds b v) (k : Nat) :
    u.bound k = v.toNat ∨ u.bound k = s.bound k := by
  unfold State.bound
  rw [h]
  by_cases hk : k < 33
  · by_cases hb : b = k
    · subst hb; left; simp [Vector.getD, hk]
    · right; simp [Vector.getD, hk, hb]
  · right; simp [Vector.getD, hk]

/-- SFB_SET (R137). -/
theorem ConfigInv.setSfb {s : State} (hs : ConfigInv s) (b : Nat) {v : BitVec 13} (hv : v.toNat ≤ 4096) :
    ConfigInv { s with sfb := s.sfb.setIfInBounds b v } := by
  obtain ⟨hremap, hbound, hun, hcfg, hsub⟩ := hs
  refine ⟨hremap, fun k => ?_, hun, hcfg, hsub⟩
  obtain h | h := State.bound_setSfb (s := s) (u := { s with sfb := s.sfb.setIfInBounds b v }) rfl k
  · rw [h]; exact hv
  · rw [h]; exact hbound k

/-- SUB_SET (R136). -/
theorem ConfigInv.setSub {s : State} (hs : ConfigInv s) (hc : s.configured = true) {n off nb : Nat}
    (h : LegalSubframe s.cfgSpf.toNat s.cfgMaxsub.toNat n off nb) :
    ConfigInv { s with subN := BitVec.ofNat 13 n, subOff := BitVec.ofNat 13 off, subNb := BitVec.ofNat 6 nb,
                       subValid := true } := by
  obtain ⟨hremap, hbound, hun, hcfg, hsub⟩ := hs
  obtain ⟨-, -, hn, hoff, -, hnb⟩ := id h
  obtain ⟨⟨-, -, -, -, hspf, -, -⟩, -⟩ := hcfg hc
  replace hspf : s.cfgSpf.toNat ≤ 4096 := hspf
  simp only [Config.maxBands] at hnb
  have en : (BitVec.ofNat 13 n).toNat = n := by rw [BitVec.toNat_ofNat]; omega
  have eoff : (BitVec.ofNat 13 off).toNat = off := by rw [BitVec.toNat_ofNat]; omega
  have enb : (BitVec.ofNat 6 nb).toNat = nb := by rw [BitVec.toNat_ofNat]; omega
  refine ⟨hremap, hbound, fun h => absurd (hc.symm.trans h) (by simp), hcfg, fun _ => ?_⟩
  simp only [en, eoff, enb]
  exact h

theorem configInv_exec {i : Instr} {s u : State} (hs : ConfigInv s) (hi : i ≠ .cfg) (h : exec i s = .next u) :
    ConfigInv u := by
  have hf := exec_frame h
  have hend (he : Ended s u) : ConfigInv u := by rw [he.eq_latched]; exact hs
  cases i with
  | cfg => exact absurd rfl hi
  | remapSet =>
    obtain he | ⟨hr, -, rfl⟩ := execRemapSet_cases h
    · exact hend he
    · obtain ⟨-, hrest⟩ := hs
      exact ⟨isRemap_low24 hr, hrest⟩
  | subSet nb =>
    obtain he | ⟨hc, h₁, h₂, hpow, hmin, hn, hoff, -, rfl⟩ := execSubSet_cases h
    · exact hend he
    · exact hs.setSub hc ⟨hpow, hmin, hn, hoff, h₁, h₂⟩
  | sfbSet b =>
    obtain he | ⟨-, -, hv, -, rfl⟩ := execSfbSet_cases h
    · exact hend he
    · exact hs.setSfb b (by rw [BitVec.toNat_setWidth]; omega)
  | chQset c =>
    rw [hf]
    exact ConfigInv.setChannel (s := s.latched u) hs c fun hc => hs.prevLenOk hc c
  | sfSet c b =>
    rw [hf]
    exact ConfigInv.setChannel (s := s.latched u) hs c fun hc => hs.prevLenOk hc c
  | prevSet c =>
    obtain he | ⟨-, -, hpow, hlo, hhi, -, rfl⟩ := execPrevSet_cases h
    · exact hend he
    · exact hs.setChannel c fun _ => prevLenOk_of_arg hpow hlo hhi c
  | window c =>
    obtain he | ⟨hc, -, hv, w, -, -, rfl⟩ := execWindow_cases h
    · exact hend he
    · exact hs.setChannel c fun _ => hs.prevLenOk_subN hc hv c
  | _ => rw [hf]; exact hs

/-! The groups (R35-R37, R159-R168). -/

theorem GroupInv.setGroup {s : State} (hs : GroupInv s) (g : BitVec 3) {r : Group} (hr : GroupOk s.cfgNch.toNat r) :
    GroupInv (s.setGroup g r) := by
  obtain ⟨hnch, hgrp⟩ := hs
  refine ⟨hnch, fun d => ?_⟩
  rw [State.group_setGroup]
  split
  · exact hr
  · exact hgrp d

/-- A matrix command: the new matrix is +0.0 outside the group's block (R159). -/
theorem GroupOk.setMat {nch : Nat} {r : Group} (h : GroupOk nch r) {m : Matrix}
    (hm : ∀ i j, ¬(i < r.count ∧ j < r.count) → matGet m i j = 0) : GroupOk nch { r with mat := m } := by
  obtain ⟨hcount, hmem, htop, hinj, hoff, hsgn, -⟩ := h
  exact ⟨hcount, hmem, htop, hinj, hoff, hsgn, hm⟩

theorem matGet_identity_outside {n : Nat} (hn : n ≤ 8) {i j : Nat} (h : ¬(i < n ∧ j < n)) :
    matGet (identity n) i j = 0 :=
  (matGet_diagonal_all hn _ i j).trans (if_neg (by omega))

theorem matGet_ms45_outside {i j : Nat} (h : ¬(i < 2 ∧ j < 2)) : matGet ms45 i j = 0 := by
  unfold ms45
  rw [matGet_matSet _ _ (by decide) (by decide), matGet_matSet _ _ (by decide) (by decide),
    matGet_matSet _ _ (by decide) (by decide), matGet_matSet _ _ (by decide) (by decide), matGet_zero,
    if_neg (by omega), if_neg (by omega), if_neg (by omega), if_neg (by omega)]

/-- The rotations of rows inside the group's block leave the rest +0.0 (R166). -/
theorem rotateRow_outside {ang : Nat → Nat} {n i : Nat} (hi : i < n) {m : Nat → Nat → F32}
    (hm : ∀ r y, ¬(r < n ∧ y < n) → m r y = 0) : ∀ x, x ≤ i → ∀ r y, ¬(r < n ∧ y < n) →
      Spec.rotateRow ang i m x r y = 0
  | 0, _, r, y, h => hm r y h
  | x + 1, hx, r, y, h => by
    rw [Spec.rotateRow, Spec.rotateAt]
    have ih := rotateRow_outside (ang := ang) hi hm x (by omega) r y h
    split
    · rw [if_neg (by omega), if_neg (by omega), ih]
    · exact ih

theorem customMatrix_outside {n : Nat} (sgn : BitVec 8) (ang : Nat → Nat) : ∀ k, k ≤ n → ∀ i j, ¬(i < n ∧ j < n) →
    Spec.customMatrix n sgn ang k i j = 0
  | 0, _, i, j, h => if_neg (by omega)
  | k + 1, hk, i, j, h => by
    rw [Spec.customMatrix]
    exact rotateRow_outside (by omega) (customMatrix_outside sgn ang k (by omega)) k le_rfl i j h

/-- GRP_SET (R160): the new group is legal. -/
theorem groupOk_grpSet {s : State} (hnch : s.cfgNch.toNat ≤ 8) {size : BitVec 4} {off : Bool} {mask : Word}
    {ang : Vector (BitVec 6) 28} (hn : size.toNat ≤ s.cfgNch.toNat)
    (hmem : membersOk (argMembers s.arg0 size.toNat) s.cfgNch.toNat = true) (hoff : off = true → size.toNat = 2) :
    GroupOk s.cfgNch.toNat
      { ch := BitVec.ofNat 32 (s.arg0.toNat % 16 ^ size.toNat), size := size, offscale := off, mask := mask, sgn := 0,
        ang := ang, mat := identity size.toNat } := by
  have hch : (BitVec.ofNat 32 (s.arg0.toNat % 16 ^ size.toNat)).toNat = s.arg0.toNat % 16 ^ size.toNat := by
    rw [BitVec.toNat_ofNat]
    exact Nat.mod_eq_of_lt (lt_of_le_of_lt (Nat.mod_le _ _) s.arg0.isLt)
  have hmember := nibble_of_mod hch
  simp only [membersOk, argMembers, Bool.and_eq_true, List.all_eq_true, decide_eq_true_eq, List.forall_mem_map,
    List.mem_range] at hmem
  obtain ⟨hlt, hnodup⟩ := hmem
  refine ⟨hn, fun k hk => ?_, fun k hk => ?_, fun k l hk hl he => ?_, hoff, Nat.two_pow_pos _,
    fun i j => matGet_identity_outside (le_trans hn hnch)⟩
  · exact lt_of_eq_of_lt ((hmember k).trans (if_pos hk)) (hlt k hk)
  · exact (hmember k).trans (if_neg (Nat.not_lt.2 hk))
  · have hk' := (hmember k).trans (if_pos hk)
    have hl' := (hmember l).trans (if_pos hl)
    exact List.inj_on_of_nodup_map (of_decide_eq_true hnodup) (List.mem_range.2 hk) (List.mem_range.2 hl)
      (hk'.symm.trans (he.trans hl'))

theorem groupInv_exec {i : Instr} {s u : State} (hs : GroupInv s) (hi : i ≠ .cfg) (h : exec i s = .next u) :
    GroupInv u := by
  have hf := exec_frame h
  have hend (he : Ended s u) : GroupInv u := by rw [he.eq_latched]; exact hs
  obtain ⟨hnch, hgrp⟩ := id hs
  have hcount (g : BitVec 3) : (s.group g).count ≤ 8 := le_trans (hgrp g).1 hnch
  cases i with
  | cfg => exact absurd rfl hi
  | grpSet g =>
    obtain he | ⟨-, -, hn, hmem, hoff, -, rfl⟩ := execGrpSet_cases h
    · exact hend he
    · exact hs.setGroup g (groupOk_grpSet hnch hn hmem hoff)
  | mxIdent g =>
    obtain he | ⟨-, -, -, rfl⟩ := execMxIdent_cases h
    · exact hend he
    · exact hs.setGroup g ((hgrp g).setMat fun _ _ => matGet_identity_outside (hcount g))
  | mxMs45 g =>
    obtain he | ⟨-, h₂, -, rfl⟩ := execMxMs45_cases h
    · exact hend he
    · exact hs.setGroup g ((hgrp g).setMat fun _ _ hij => matGet_ms45_outside (by rwa [h₂] at hij))
  | mxWrite g x y =>
    obtain he | ⟨-, hx, hy, -, rfl⟩ := execMxWrite_cases h
    · exact hend he
    · obtain ⟨-, -, -, -, -, -, hzero⟩ := hgrp g
      refine hs.setGroup g ((hgrp g).setMat fun i j hij => ?_)
      rw [matGet_matSet _ _ x.isLt y.isLt, if_neg (by rintro ⟨rfl, rfl⟩; exact hij ⟨hx, hy⟩)]
      exact hzero i j hij
  | mxAng g k a =>
    obtain he | ⟨-, -, -, rfl⟩ := execMxAng_cases h
    · exact hend he
    · exact hs.setGroup g (hgrp g)
  | mxSigns g sg =>
    obtain he | ⟨-, -, hsg, -, rfl⟩ := execMxSigns_cases h
    · exact hend he
    · obtain ⟨hle, hmem, htop, hinj, hoff, -, hzero⟩ := hgrp g
      exact hs.setGroup g ⟨hle, hmem, htop, hinj, hoff, hsg, hzero⟩
  | mxRot g =>
    obtain he | ⟨-, h₀, -, rfl⟩ := execMxRot_cases h
    · exact hend he
    · refine hs.setGroup g ((hgrp g).setMat fun i j hij => ?_)
      rw [matGet_rotationMatrix h₀ (hcount g)]
      exact customMatrix_outside _ _ _ le_rfl i j hij
  | _ => rw [hf]; exact hs

/-! CFG, which sets both (R132). -/

/-- CFG (R132). -/
theorem configInv_configure {s : State} (hs : ConfigInv s) {nch spf maxsub : Nat}
    (h : LegalConfig nch spf maxsub) :
    ConfigInv (s.configure nch spf maxsub) ∧ GroupInv (s.configure nch spf maxsub) := by
  obtain ⟨hremap, -⟩ := hs
  obtain ⟨h₁, h₈, hpow, hlo, hhi, hmpow, hmin⟩ := id h
  simp only [Config.maxCh, Config.minBlock, Config.spfMax] at h₈ hlo hhi hmin
  have hmax : maxsub ≤ 32 := by
    have hmul := Nat.mul_le_mul_right maxsub hmin
    have hdiv := Nat.div_mul_le_self spf maxsub
    omega
  have hnch : (BitVec.ofNat 4 nch).toNat = nch := by rw [BitVec.toNat_ofNat]; omega
  have hspf : (BitVec.ofNat 13 spf).toNat = spf := by rw [BitVec.toNat_ofNat]; omega
  have hsub : (BitVec.ofNat 6 maxsub).toNat = maxsub := by rw [BitVec.toNat_ofNat]; omega
  have hchan (c : BitVec 3) : (s.configure nch spf maxsub).channel c =
      { Channel.reset with prevLen := BitVec.ofNat 13 spf } := by
    simp [State.channel, State.configure]
  have hgrp (g : BitVec 3) : (s.configure nch spf maxsub).group g = Group.reset := by
    simp [State.group, State.configure]
  refine ⟨⟨hremap, fun b => ?_, fun h => absurd h (by simp [State.configure]), fun _ => ⟨?_, fun c => ?_⟩,
    fun h => ?_⟩, ?_, fun g => ?_⟩
  · rw [State.bound_of_cleared rfl]; omega
  · simp only [State.configure, hnch, hspf, hsub]; exact h
  · rw [hchan]; simp only [State.configure, hspf]; exact ⟨hpow, hlo, le_refl _⟩
  · simp [State.configure] at h
  · simp only [State.configure, hnch]; exact h₈
  · rw [hgrp]; exact groupOk_reset _

theorem configInv_groupInv_exec {i : Instr} {s u : State} (hs : ConfigInv s ∧ GroupInv s) (h : exec i s = .next u) :
    ConfigInv u ∧ GroupInv u := by
  by_cases hi : i = .cfg
  · subst hi
    obtain he | ⟨h₁, h₈, hpow, hlo, hhi, hmpow, hmin, -, rfl⟩ := execCfg_cases h
    · rw [he.eq_latched]; exact hs
    · exact configInv_configure hs.1 ⟨h₁, h₈, hpow, hlo, hhi, hmpow, hmin⟩
  · exact ⟨configInv_exec hs.1 hi h, groupInv_exec hs.2 hi h⟩

/-- Settles O58, command by command. -/
theorem stepKeepsConfigAndGroupInv : Obligations.StepKeepsConfigAndGroupInv := by
  unfold Obligations.StepKeepsConfigAndGroupInv
  intro s u hs h
  exact step_keeps (P := fun s => ConfigInv s ∧ GroupInv s) (fun s u hp hu => by rw [hu]; exact hp)
    ⟨reset_configInv, reset_groupInv⟩ (fun _ _ _ hp _ => hp) (fun _ _ hp => hp)
    (fun i s u hp hx => configInv_groupInv_exec hp hx) hs h

end Sys2Proof.Machine
end

section
/-! SUPPORT. Which bytes of the data RAMs each command may write (R40-R43), and what follows for every command and every
step: the canonical form stays, BBUF is not written, nothing is written outside the windows of the map. -/

namespace Sys2Proof.Machine

/-! Memories that differ by writes to allowed ranges. -/

/-- `m'` is `m` after writes and erasures of ranges (address, length) that `R` allows. -/
inductive Edited (R : Nat → Nat → Prop) (m : Memory) : Memory → Prop where
  | refl : Edited R m m
  | write {m' : Memory} {a : Nat} {bs : List Byte} (h : Edited R m m') (hr : R a bs.length) :
    Edited R m (writeBytes m' a bs)
  | erase {m' : Memory} {a n : Nat} (h : Edited R m m') (hr : R a n) : Edited R m (eraseBytes m' a n)

section

variable {R : Nat → Nat → Prop} {m m' : Memory}

theorem Edited.wf (h : Edited R m m') (hm : Memory.wf m = true) : Memory.wf m' = true := by
  induction h with
  | refl => exact hm
  | write _ _ ih => exact wf_writeBytes _ _ _ ih
  | erase _ _ ih => exact wf_eraseBytes _ _ _ ih

/-- A byte in no allowed range is as before. -/
theorem Edited.readByte_eq (h : Edited R m m') {x : Nat} (hx : ∀ a n, R a n → ¬(a ≤ x ∧ x < a + n)) :
    readByte m' x = readByte m x := by
  induction h with
  | refl => rfl
  | write _ hr ih => rw [readByte_writeBytes, if_neg (hx _ _ hr), ih]
  | erase _ hr ih => rw [readByte_eraseBytes, if_neg (hx _ _ hr), ih]

theorem Edited.writeWords {a : Nat} {ws : List Word} (h : Edited R m m') (hr : R a (4 * ws.length)) :
    Edited R m (writeWords m' a ws) :=
  h.write (by rwa [flatMap_wordBytes_length])

theorem Edited.mapCoef {c lo hi : Nat} (h : Edited R m m') (f : F32 → F32) (hr : R (coefAddr c lo) (4 * (hi - lo))) :
    Edited R m (mapCoef m' c lo hi f) :=
  h.writeWords (by simpa using hr)

theorem Edited.foldl {β : Type} {f : Memory → β → Memory} {bs : List β} (h : Edited R m m')
    (hf : ∀ b ∈ bs, ∀ m', Edited R m m' → Edited R m (f m' b)) : Edited R m (bs.foldl f m') := by
  induction bs generalizing m' with
  | nil => exact h
  | cons b bs ih => exact ih (hf b (by simp) _ h) fun b' hb' => hf b' (by simp [hb'])

end

theorem flatMap_sampleBytes_length (xs : List (BitVec 16)) : (xs.flatMap sampleBytes).length = 2 * xs.length := by
  induction xs with
  | nil => rfl
  | cons x xs ih =>
    simp only [List.flatMap_cons, List.length_append, ih, List.length_cons, sampleBytes, List.length_nil]
    omega

/-! The windows of COEF, PCM and OUT (R61). -/

def InCoef (x : Nat) : Prop := 0x20000 ≤ x ∧ x < 0x40000

def InPcm (x : Nat) : Prop := 0x40000 ≤ x ∧ x < 0x80000 ∧ x % 0x8000 < 4 * 6144

def InOut (x : Nat) : Prop := 0x80000 ≤ x ∧ x < 0x90000

theorem inCoef_of_range {c lo n x : Nat} (hc : c < 8) (hn : n ≤ 4096 - lo) (h₁ : coefAddr c lo ≤ x)
    (h₂ : x < coefAddr c lo + 4 * n) : InCoef x := by
  unfold coefAddr at h₁ h₂
  unfold InCoef
  omega

theorem inPcm_of_range {c lo n x : Nat} (hc : c < 8) (hn : lo + n ≤ 6144) (h₁ : pcmAddr c lo ≤ x)
    (h₂ : x < pcmAddr c lo + 4 * n) : InPcm x := by
  unfold pcmAddr at h₁ h₂
  unfold InPcm
  omega

/-- The bytes that the rules let a command write (R41-R43). -/
def MayWrite : Instr → Nat → Prop
  | .coefClr _, x | .dequant _, x | .mxApply _, x => InCoef x
  | .imdct _, x | .window _, x | .pcmZero _, x => InPcm x
  | .outEmit, x => InPcm x ∨ InOut x
  | .cfg, x => InCoef x ∨ InPcm x ∨ InOut x
  | _, _ => False

/-- A range past BBUF that, in a legal state, lies where the command may write. -/
def Allowed (s : State) (i : Instr) (a n : Nat) : Prop :=
  0x20000 ≤ a ∧ (ConfigInv s → GroupInv s → ∀ x, a ≤ x → x < a + n → MayWrite i x)

theorem coefAddr_ge (c i : Nat) : 0x20000 ≤ coefAddr c i := by unfold coefAddr; omega

theorem pcmAddr_ge (c i : Nat) : 0x20000 ≤ pcmAddr c i := by unfold pcmAddr; omega

theorem outAddr_ge (k : Nat) : 0x20000 ≤ outAddr k := by unfold outAddr; omega

theorem ConfigInv.bound_le {s : State} (h : ConfigInv s) (b : Nat) : s.bound b ≤ 4096 := by
  obtain ⟨-, hb, -⟩ := h
  exact hb b

/-! Command by command. -/

/-- DEQUANT (R180). -/
theorem edited_dequant (s : State) (c : BitVec 3) (hc : s.configured = true) (hv : s.subValid = true) :
    Edited (Allowed s (.dequant c)) s.mem
      (eraseBytes ((List.range s.subNb.toNat).foldl (dequantBand s c) s.mem)
          (coefAddr c.toNat (s.bound s.subNb.toNat)) (4 * (s.subN.toNat - s.bound s.subNb.toNat))) := by
  have hrange (b : Nat) : Allowed s (.dequant c) (coefAddr c.toNat (s.bound b)) (4 * (s.bound (b + 1) - s.bound b)) :=
    ⟨coefAddr_ge _ _, fun hi _ x => inCoef_of_range c.isLt (Nat.sub_le_sub_right (hi.bound_le (b + 1)) _)⟩
  have hbands : Edited (Allowed s (.dequant c)) s.mem ((List.range s.subNb.toNat).foldl (dequantBand s c) s.mem) := by
    refine Edited.refl.foldl fun b _ m' hm => ?_
    unfold dequantBand
    exact hm.mapCoef _ (hrange b)
  refine hbands.erase ⟨coefAddr_ge _ _, fun hi _ x h₁ h₂ => inCoef_of_range c.isLt (Nat.sub_le_sub_right ?_ _) h₁ h₂⟩
  obtain ⟨-, -, -, hcfg, hsub⟩ := hi
  obtain ⟨⟨-, -, -, -, hspf, -, -⟩, -⟩ := hcfg hc
  obtain ⟨-, hn, hle, -, -, -⟩ := hsub hv
  exact le_trans hle hspf

/-- MX_APPLY (R167): the members are configured channels. -/
theorem edited_mxApply (s : State) (g : BitVec 3) :
    Edited (Allowed s (.mxApply g)) s.mem ((List.range s.subNb.toNat).foldl (applyBand s (s.group g)) s.mem) := by
  refine Edited.refl.foldl fun b _ m' hm => ?_
  have hrange (k : Nat) (hk : GroupInv s → k < (s.group g).count) : Allowed s (.mxApply g)
      (coefAddr ((s.group g).member k) (s.bound b)) (4 * (s.bound (b + 1) - s.bound b)) := by
    refine ⟨coefAddr_ge _ _, fun hi hg x h₁ h₂ => ?_⟩
    obtain ⟨hnch, hgrp⟩ := id hg
    obtain ⟨-, hmem, -⟩ := hgrp g
    exact inCoef_of_range (lt_of_lt_of_le (hmem k (hk hg)) hnch) (Nat.sub_le_sub_right (hi.bound_le (b + 1)) _) h₁ h₂
  unfold applyBand
  split
  · unfold mixBand
    refine hm.foldl fun j hj m' hm => hm.writeWords ?_
    rw [List.length_map, List.length_range']
    exact hrange j fun _ => List.mem_range.1 hj
  · split
    · rename_i hoff
      have htwo (hg : GroupInv s) : (s.group g).count = 2 := by
        obtain ⟨-, hgrp⟩ := hg
        obtain ⟨-, -, -, -, h₂, -⟩ := hgrp g
        exact h₂ hoff
      unfold rescaleBand
      exact (hm.mapCoef _ (hrange 0 fun hg => by rw [htwo hg]; decide)).mapCoef _
        (hrange 1 fun hg => by rw [htwo hg]; decide)
    · exact hm

/-- CFG (R132). -/
theorem edited_cfg (s : State) : Edited (Allowed s .cfg) s.mem (clearDataRams s.mem) := by
  have hcoef : Edited (Allowed s .cfg) s.mem (eraseBytes s.mem (coefAddr 0 0) 0x20000) :=
    Edited.refl.erase ⟨coefAddr_ge _ _, fun _ _ x h₁ h₂ => .inl ⟨h₁, h₂⟩⟩
  have hpcm := hcoef.foldl (bs := List.range Config.maxCh)
    (f := fun m c => eraseBytes m (pcmAddr c 0) (4 * Config.pcmWords)) fun c hc m' hm =>
      hm.erase ⟨pcmAddr_ge _ _, fun _ _ x h₁ h₂ => .inr (.inl (inPcm_of_range (List.mem_range.1 hc) (by simp) h₁ h₂))⟩
  exact hpcm.erase ⟨outAddr_ge _, fun _ _ x h₁ h₂ => .inr (.inr ⟨h₁, h₂⟩)⟩

/-- OUT_EMIT (R203). -/
theorem edited_outEmit (s : State) (hc : s.configured = true) :
    Edited (Allowed s .outEmit) s.mem ((List.range s.cfgNch.toNat).foldl (shiftHistory s.cfgSpf.toNat)
      (writeBytes s.mem (outAddr 0)
        (((List.range (s.cfgNch.toNat * s.cfgSpf.toNat)).map s.outSample).flatMap sampleBytes))) := by
  have hlegal (hi : ConfigInv s) : s.cfgNch.toNat ≤ 8 ∧ s.cfgSpf.toNat ≤ 4096 := by
    obtain ⟨-, -, -, hcfg, -⟩ := hi
    obtain ⟨⟨-, hnch, -, -, hspf, -⟩, -⟩ := hcfg hc
    exact ⟨hnch, hspf⟩
  have hout : Edited (Allowed s .outEmit) s.mem (writeBytes s.mem (outAddr 0)
      (((List.range (s.cfgNch.toNat * s.cfgSpf.toNat)).map s.outSample).flatMap sampleBytes)) := by
    refine Edited.refl.write ⟨outAddr_ge _, fun hi _ x h₁ h₂ => .inr ⟨h₁, ?_⟩⟩
    obtain ⟨hnch, hspf⟩ := hlegal hi
    have hmul := Nat.mul_le_mul hnch hspf
    simp only [flatMap_sampleBytes_length, List.length_map, List.length_range, outAddr] at h₂
    omega
  refine hout.foldl fun c hmem m' hm => ?_
  have hlt := List.mem_range.1 hmem
  have htail : Edited (Allowed s .outEmit) s.mem (writeWords m' (pcmAddr c 0)
      ((List.range (s.cfgSpf.toNat / 2)).map fun i => pcm m' c (s.cfgSpf.toNat + i))) := by
    refine hm.writeWords ⟨pcmAddr_ge _ _, fun hi _ x h₁ h₂ => .inl (inPcm_of_range ?_ ?_ h₁ h₂)⟩ <;>
      obtain ⟨hnch, hspf⟩ := hlegal hi
    · omega
    · simp only [List.length_map, List.length_range]
      omega
  refine htail.erase ⟨pcmAddr_ge _ _, fun hi _ x h₁ h₂ => .inl (inPcm_of_range ?_ ?_ h₁ h₂)⟩ <;>
    obtain ⟨hnch, hspf⟩ := hlegal hi <;> omega

/-- Every command writes memory only by writes and erasures of allowed ranges. -/
theorem exec_edited {i : Instr} {s u : State} (h : exec i s = .next u) : Edited (Allowed s i) s.mem u.mem := by
  have hf := exec_frame h
  have hend (he : Ended s u) : Edited (Allowed s i) s.mem u.mem := by rw [he.eq_latched]; exact .refl
  cases i with
  | coefClr c =>
    obtain he | ⟨-, -, -, rfl⟩ := execCoefClr_cases h
    · exact hend he
    · exact Edited.refl.erase ⟨coefAddr_ge _ _, fun _ _ x => inCoef_of_range (n := 4096) c.isLt (by omega)⟩
  | dequant c =>
    obtain he | ⟨hc, -, hv, -, -, -, rfl⟩ := execDequant_cases h
    · exact hend he
    · exact edited_dequant s c hc hv
  | mxApply g =>
    obtain he | ⟨-, -, -, -, -, rfl⟩ := execMxApply_cases h
    · exact hend he
    · exact edited_mxApply s g
  | imdct c =>
    obtain he | ⟨hc, -, hv, hz, rfl⟩ := execImdct_cases h
    · exact hend he
    · refine Edited.refl.writeWords ⟨pcmAddr_ge _ _, fun hi _ x => inPcm_of_range c.isLt ?_⟩
      obtain ⟨-, hoff, hspf, -, -⟩ := block_bounds hi ⟨hz, hc⟩ hv c
      simp only [List.length_map, List.length_range, State.blockBase]
      omega
  | window c =>
    obtain he | ⟨hc, -, hv, w, hw, hz, rfl⟩ := execWindow_cases h
    · exact hend he
    · refine Edited.refl.writeWords ⟨pcmAddr_ge _ _, fun hi _ x => inPcm_of_range c.isLt ?_⟩
      obtain ⟨-, hoff, hspf, -, -⟩ := block_bounds hi ⟨hz, hc⟩ hv c
      simp only [List.length_map, List.length_range, State.blockBase]
      omega
  | pcmZero c =>
    obtain he | ⟨hc, -, hsum, -, rfl⟩ := execPcmZero_cases h
    · exact hend he
    · refine Edited.refl.erase ⟨pcmAddr_ge _ _, fun hi _ x => inPcm_of_range c.isLt ?_⟩
      obtain ⟨-, -, -, hcfg, -⟩ := hi
      obtain ⟨⟨-, -, -, -, hspf, -⟩, -⟩ := hcfg hc
      simp only [Config.spfMax] at hspf
      omega
  | outEmit =>
    obtain he | ⟨hc, -, rfl⟩ := execOutEmit_cases h
    · exact hend he
    · exact edited_outEmit s hc
  | cfg =>
    obtain he | ⟨-, -, -, -, -, -, -, -, rfl⟩ := execCfg_cases h
    · exact hend he
    · exact edited_cfg s
  | _ => rw [hf]; exact .refl

/-! What follows for every command. -/

/-- Settles O19: the registers by the frame; every range that a command writes lies past BBUF. -/
theorem noCommandWritesHostSide : Obligations.NoCommandWritesHostSide := by
  unfold Obligations.NoCommandWritesHostSide
  intro s u i h
  obtain ⟨hbusy, hdone, hlast, h₀, h₁, h₂, hhaz, hied, hiee, hhost, hreads⟩ := exec_keeps_host h
  refine ⟨hbusy, hdone, hlast, h₀, h₁, h₂, hhaz, hied, hiee, hhost, hreads, fun a ha => ?_⟩
  exact (exec_edited h).readByte_eq fun b n hr hb => by have := hr.1; omega

/-- A byte that a command changes in a legal state is one it may write. -/
theorem mayWrite_of_changed {i : Instr} {s u : State} {a : Nat} (hc : ConfigInv s) (hg : GroupInv s)
    (h : exec i s = .next u) (hne : readByte u.mem a ≠ readByte s.mem a) : MayWrite i a := by
  by_contra hno
  exact hne ((exec_edited h).readByte_eq fun b n hr hb => hno (hr.2 hc hg a hb.1 hb.2))

/-- Settles O21, by `MayWrite` command by command. -/
theorem onlyTheirCommandsWriteRams : Obligations.OnlyTheirCommandsWriteRams := by
  unfold Obligations.OnlyTheirCommandsWriteRams
  intro s u i a hc hg h hne
  have hw := mayWrite_of_changed hc hg h hne
  cases i with
  | coefClr c | dequant c =>
    obtain ⟨hlo, hhi⟩ := hw
    exact .inl ⟨hlo, hhi, by simp⟩
  | mxApply g =>
    obtain ⟨hlo, hhi⟩ := hw
    exact .inl ⟨hlo, hhi, by simp⟩
  | imdct c | window c | pcmZero c =>
    obtain ⟨hlo, hhi, -⟩ := hw
    exact .inr (.inl ⟨hlo, hhi, by simp⟩)
  | outEmit =>
    obtain ⟨hlo, hhi, -⟩ | ⟨hlo, hhi⟩ := hw
    · exact .inr (.inl ⟨hlo, hhi, by simp⟩)
    · exact .inr (.inr ⟨hlo, hhi, by simp⟩)
  | cfg =>
    obtain ⟨hlo, hhi⟩ | ⟨hlo, hhi, -⟩ | ⟨hlo, hhi⟩ := hw
    · exact .inl ⟨hlo, hhi, by simp⟩
    · exact .inr (.inl ⟨hlo, hhi, by simp⟩)
    · exact .inr (.inr ⟨hlo, hhi, by simp⟩)
  | _ => exact hw.elim

/-! What follows for every step. -/

/-- Settles O55: each write and each erasure keeps the canonical form. -/
theorem stepKeepsMemoryInv : Obligations.StepKeepsMemoryInv := by
  unfold Obligations.StepKeepsMemoryInv
  intro s u hs h
  exact step_keeps (P := MemoryInv) (fun s u hp hu => by rw [hu]; exact hp) reset_mem_wf
    (fun _ _ _ hp _ => wf_writeWords _ _ _ hp) (fun _ _ hp => hp) (fun i s u hp hx => (exec_edited hx).wf hp) hs h

/-- `u` differs from `s` in the interface fields only, which no invariant of the architecture reads. -/
def SameCore (s u : State) : Prop := u = { s with
  busy := u.busy, done := u.done, haz := u.haz, ieDone := u.ieDone, ieErr := u.ieErr,
  lastCmd := u.lastCmd, arg0 := u.arg0, arg1 := u.arg1, arg2 := u.arg2, host := u.host, reads := u.reads }

theorem SameCore.trans {s t u : State} (h : SameCore s t) (h' : SameCore t u) : SameCore s u :=
  Eq.trans h' (by rw [h])

/-- The host's accesses inside a BUSY interval leave the core as it is or reset it (R256). -/
theorem overlap_sameCore (l : List HostOp) (iv : Interval) (s : State) :
    SameCore s (State.overlap l iv s).2 ∨ SameCore State.reset (State.overlap l iv s).2 := by
  refine overlap_keeps (P := fun t => SameCore s t ∨ SameCore State.reset t) (fun t iv e ht => ?_)
    (fun t l ht => ht.imp (·.trans rfl) (·.trans rfl)) l iv s (.inl rfl)
  have hdrop : SameCore t (t.drop iv) := by cases iv <;> rfl
  obtain h | ⟨v, h⟩ | ⟨v, h⟩ | ⟨a, v, h⟩ | h | ⟨a, v, h⟩ := busyEvent_cases t iv e <;> rw [h]
  · exact .inr rfl
  · exact ht.imp (·.trans rfl) (·.trans rfl)
  · exact ht.imp (·.trans rfl) (·.trans rfl)
  · exact ht.imp (·.trans rfl) (·.trans rfl)
  · exact ht.imp (·.trans hdrop) (·.trans hdrop)
  · exact ht.imp (·.trans (hdrop.trans rfl)) (·.trans (hdrop.trans rfl))

/-- A host write while BUSY = 0 (R61-R63) changes interface fields or one word of a RAM. -/
theorem busWrite_cases (s : State) (off : Nat) (v : Word) : SameCore s (s.busWrite off v) ∨
    (ramWritable off = true ∧ SameCore { s with mem := writeWords s.mem off [v] } (s.busWrite off v)) := by
  unfold State.busWrite
  split_ifs with _ _ _ _ _ hram
  · exact .inl rfl
  · exact .inl rfl
  · exact .inl rfl
  · exact .inl rfl
  · exact .inl rfl
  · exact .inr ⟨hram, rfl⟩
  · exact .inl rfl

theorem resetWith_sameCore (s : State) (rest : List HostOp) : SameCore State.reset (s.resetWith rest) := by
  have hstart : SameCore State.reset s.startReset := rfl
  obtain h | h := overlap_sameCore rest .clearing s.startReset
  · exact (hstart.trans h).trans rfl
  · exact h.trans rfl

/-- What a step at a CMD write can do to the core: the accesses inside the BUSY interval keep it or reset it, and then a
command runs or an error is raised, unless a reset or the lock prevents it (R222, R250, R256). -/
theorem issueCommand_core_cases {w : Word} {rest : List HostOp} {s u : State} (h : issueCommand w rest s = .next u) :
    ∃ t, (SameCore s t ∨ SameCore State.reset t) ∧
      (SameCore t u ∨ (∃ i, exec i t = .next u) ∨ ∃ e : CmdError, SameCore (t.raise e) u) := by
  obtain ⟨iv, t, ht, hcase⟩ := issueCommand_cases h
  have hissue : SameCore s (s.issue w) := rfl
  have hcore : SameCore s t ∨ SameCore State.reset t := by
    have hover := overlap_sameCore rest .command (s.issue w)
    rw [ht] at hover
    exact hover.imp_left hissue.trans
  refine ⟨t, hcore, ?_⟩
  obtain ⟨-, rfl⟩ | ⟨-, ⟨i, -, hx⟩ | ⟨e, -, hx⟩⟩ := hcase
  · exact .inl rfl
  · exact .inr (.inl ⟨i, hx⟩)
  · obtain ⟨-, rfl⟩ | ⟨-, e', rfl⟩ := run_error_cases hx
    · exact .inl rfl
    · exact .inr (.inr ⟨e', rfl⟩)

/-- The induction package of `step_keeps`, for an invariant that a word write at a word offset keeps (R62). -/
theorem step_keeps_word {P : State → Prop} (hcore : ∀ s u, P s → SameCore s u → P u) (hreset : P State.reset)
    (hram : ∀ s addr v, P s → ramWritable (busOffset addr) = true →
      P { s with mem := writeWords s.mem (busOffset addr) [v] })
    (hraise : ∀ s e, P s → P (s.raise e)) (hexec : ∀ i s u, P s → exec i s = .next u → P u)
    {s u : State} (hs : P s) (h : step s = .next u) : P u := by
  obtain ⟨-, ⟨-, rfl⟩ | ⟨op, rest, -, he⟩⟩ := step_cases h
  · exact hs
  cases hop : op.event with
  | powerOnReset =>
    rw [hop] at he
    rw [← Host.Outcome.next.inj he]
    exact hcore _ _ hreset (resetWith_sameCore s rest)
  | read addr =>
    rw [hop] at he
    exact hcore s u hs (by rw [← Host.Outcome.next.inj he]; rfl)
  | write addr v =>
    rw [hop, hostEvent] at he
    split_ifs at he
    · obtain ⟨t, ht, hu⟩ := issueCommand_core_cases he
      have hp : P t := ht.elim (hcore s t hs) (hcore _ t hreset)
      obtain hu | ⟨i, hx⟩ | ⟨e, hu⟩ := hu
      · exact hcore t u hp hu
      · exact hexec i t u hp hx
      · exact hcore _ u (hraise t e hp) hu
    · rw [← Host.Outcome.next.inj he]
      exact hcore _ _ hreset (resetWith_sameCore s rest)
    · rw [← Host.Outcome.next.inj he]
      have hhost : P { s with host := rest } := hcore s _ hs rfl
      obtain hu | ⟨hr, hu⟩ := busWrite_cases { s with host := rest } (busOffset addr) v
      · exact hcore _ _ hhost hu
      · exact hcore _ _ (hram _ addr v hhost hr) hu

theorem MayWrite.inRam {i : Instr} {x : Nat} (h : MayWrite i x) : InRam x := by
  have hcoef : InCoef x → InRam x := fun ⟨hlo, hhi⟩ => .inl ⟨by omega, hhi⟩
  have hpcm : InPcm x → InRam x := fun h => .inr (.inl h)
  have hout : InOut x → InRam x := fun h => .inr (.inr h)
  cases i with
  | coefClr c | dequant c | mxApply c => exact hcoef h
  | imdct c | window c | pcmZero c => exact hpcm h
  | outEmit => exact h.elim hpcm hout
  | cfg => exact h.elim hcoef (·.elim hpcm hout)
  | _ => exact h.elim

theorem ramWritable_iff (off : Nat) : ramWritable off = true ↔ Spec.RamWindow off := by
  simp [ramWritable, Spec.RamWindow, and_assoc]

/-- A word of a writable window lies in the window (R61, R62). -/
theorem inRam_of_word {addr : Word} (h : ramWritable (busOffset addr) = true) {x : Nat} (h₁ : busOffset addr ≤ x)
    (h₂ : x < busOffset addr + 4) : InRam x := by
  rw [ramWritable_iff] at h
  have hword : busOffset addr % 4 = 0 := Nat.mul_mod_left _ _
  unfold Spec.RamWindow at h
  unfold InRam
  simp only [Config.pcmWords]
  omega

theorem ExtentInv.exec {i : Instr} {s u : State} (hc : ConfigInv s) (hg : GroupInv s) (he : ExtentInv s)
    (h : exec i s = .next u) : ExtentInv u := by
  intro a ha
  by_contra hne
  exact ha (mayWrite_of_changed hc hg h (by rwa [he a ha])).inRam

/-- Settles O59: a command writes only what `MayWrite` lists, the host only words of the writable windows. -/
theorem stepKeepsExtentInv : Obligations.StepKeepsExtentInv := by
  unfold Obligations.StepKeepsExtentInv
  intro s u hc hg he h
  refine (step_keeps_word (P := fun s => (ConfigInv s ∧ GroupInv s) ∧ ExtentInv s) ?_ ?_ ?_ ?_ ?_ ⟨⟨hc, hg⟩, he⟩ h).2
  · intro s u hp hu
    rw [hu]; exact hp
  · exact ⟨⟨reset_configInv, reset_groupInv⟩, reset_extentInv⟩
  · refine fun s addr v ⟨hcg, hext⟩ hr => ⟨hcg, fun a ha => ?_⟩
    rw [readByte_writeWords, if_neg fun hx => ha (inRam_of_word hr hx.1 hx.2)]
    exact hext a ha
  · exact fun s e hp => hp
  · exact fun i s u ⟨hcg, hext⟩ hx => ⟨configInv_groupInv_exec hcg hx, hext.exec hcg.1 hcg.2 hx⟩

end Sys2Proof.Machine
end

section
/-! SUPPORT. Resets and the host's accesses inside a BUSY interval (R250, R251, R256). -/

namespace Sys2Proof.Machine

/-- `s` with other values of what the host's accesses inside a command's BUSY interval can change (R256). -/
def State.withAccess (s : State) (haz ieDone ieErr : Bool) (reads : List (Word × Word)) : State :=
  { s with haz := haz, ieDone := ieDone, ieErr := ieErr, reads := reads }

section

variable {haz ieDone ieErr : Bool} {reads : List (Word × Word)}

/-- The result of a command, with those changes made to it. -/
def withAccessResult (haz ieDone ieErr : Bool) (reads : List (Word × Word)) (r : Except CmdError State) :
    Except CmdError State := r.map (·.withAccess haz ieDone ieErr reads)

/-- The frame of a command commutes with the changes. -/
theorem run_withAccess {s t : State} {r r' : Except CmdError State} (h : run s r = .next t)
    (hr : r' = withAccessResult haz ieDone ieErr reads r) :
    run (s.withAccess haz ieDone ieErr reads) r' = .next (t.withAccess haz ieDone ieErr reads) := by
  rw [hr]
  by_cases he : s.err = 0
  · have he' : (s.withAccess haz ieDone ieErr reads).err = 0 := he
    cases r with
    | ok t' =>
      rw [run_ok he] at h
      rw [← Host.Outcome.next.inj h]
      exact run_ok he' _
    | error e =>
      rw [run_error he] at h
      rw [← Host.Outcome.next.inj h]
      exact run_error he' _
  · have he' : (s.withAccess haz ieDone ieErr reads).err ≠ 0 := he
    rw [run_locked he] at h
    rw [← Host.Outcome.next.inj h]
    exact run_locked he' _

/-- A check commutes with the changes. -/
theorem check_withAccess {c : Prop} [Decidable c] {e : CmdError} {r r' : Except CmdError State}
    (hr : r' = withAccessResult haz ieDone ieErr reads r) :
    (if c then .error e else r') = withAccessResult haz ieDone ieErr reads (if c then .error e else r) := by
  split
  · rfl
  · exact hr

/-- The check of R85 commutes with the changes. -/
theorem configured_withAccess {c : Prop} [Decidable c] {e : CmdError} {r r' : Except CmdError State}
    (hr : r' = withAccessResult haz ieDone ieErr reads r) :
    (if c then r' else .error e) = withAccessResult haz ieDone ieErr reads (if c then r else .error e) := by
  split
  · exact hr
  · rfl

theorem State.windowBits_withAccess (s : State) (p n : Nat) :
    (s.withAccess haz ieDone ieErr reads).windowBits p n = s.windowBits p n := by
  induction n with
  | zero => rfl
  | succ n ih => simp only [State.windowBits, ih]; rfl

theorem State.vlcMatch_withAccess (s : State) (es : List VlcEntry) (limit : Nat) :
    (s.withAccess haz ieDone ieErr reads).vlcMatch es limit = s.vlcMatch es limit := by
  simp only [State.vlcMatch, State.windowBits_withAccess]; rfl

end

/-- No command reads what those accesses change. -/
theorem exec_withAccess {i : Instr} {s t : State} (haz ieDone ieErr : Bool) (reads : List (Word × Word))
    (h : exec i s = .next t) :
    exec i (s.withAccess haz ieDone ieErr reads) = .next (t.withAccess haz ieDone ieErr reads) := by
  cases i with
  | errClr => rw [execErrClr_cases h]; rfl
  | brVlc t =>
    let s' := s.withAccess haz ieDone ieErr reads
    have hm : s'.vlcMatch (s'.vlcEntries t) (min (s'.table t).maxlen.toNat (s'.brLen.toNat - s'.brPos.toNat)) =
        s.vlcMatch (s.vlcEntries t) (min (s.table t).maxlen.toNat (s.brLen.toNat - s.brPos.toNat)) :=
      State.vlcMatch_withAccess s _ _
    refine run_withAccess h (check_withAccess ?_)
    rw [hm]
    cases s.vlcMatch (s.vlcEntries t) (min (s.table t).maxlen.toNat (s.brLen.toNat - s.brPos.toNat)) with
    | some e => rfl
    | none => exact check_withAccess rfl
  | nop | brTell => exact run_withAccess h rfl
  | brSkip | brInit | vlcBegin | remapSet => exact run_withAccess h (check_withAccess rfl)
  | brRead n | brPeek n =>
    exact run_withAccess h (check_withAccess (check_withAccess (by rw [State.windowBits_withAccess]; rfl)))
  | vlcAdd | vlcEnd => exact run_withAccess h (check_withAccess (check_withAccess rfl))
  | cfg => exact run_withAccess h (check_withAccess (check_withAccess (check_withAccess rfl)))
  | outEmit => exact run_withAccess h (configured_withAccess rfl)
  | mxIdent | mxRot | sfbSet | qsSet | coefClr =>
    exact run_withAccess h (configured_withAccess (check_withAccess rfl))
  | mxMs45 | mxWrite | mxAng | mxSigns | chQset | sfSet | prevSet | imdct | window | pcmZero =>
    exact run_withAccess h (configured_withAccess (check_withAccess (check_withAccess rfl)))
  | grpSet | subSet | mxApply =>
    exact run_withAccess h (configured_withAccess (check_withAccess (check_withAccess (check_withAccess rfl))))
  | dequant =>
    exact run_withAccess h
      (configured_withAccess (check_withAccess (check_withAccess (check_withAccess (check_withAccess rfl)))))

/-- Every command has a next state. -/
theorem exec_next (i : Instr) (s : State) : ∃ u, exec i s = .next u := by
  cases i with
  | errClr => exact ⟨_, rfl⟩
  | _ => exact run_next _ _

/-! Resets (R250, R251). -/

theorem hostEvent_of_isReset {e : HostEvent} (h : Spec.IsReset e) (rest : List HostOp) (s : State) :
    hostEvent e rest s = .next (s.resetWith rest) := by
  obtain rfl | ⟨addr, v, rfl, ha, hv⟩ := h
  · rfl
  · rw [hostEvent, if_neg (by rw [ha]; decide), if_pos (by rw [ha, hv]; rfl)]

theorem busyEvent_of_isReset {e : HostEvent} (h : Spec.IsReset e) (iv : Interval) (s : State) :
    s.busyEvent iv e = (.clearing, s.startReset) := by
  obtain rfl | ⟨addr, v, rfl, ha, hv⟩ := h
  · rfl
  · rw [State.busyEvent, if_pos (show busOffset addr = ctrlOffset from ha), if_pos hv]

theorem overlap_early (e : HostEvent) (rest : List HostOp) (iv : Interval) (s : State) :
    State.overlap (⟨true, e⟩ :: rest) iv s = State.overlap rest (s.busyEvent iv e).1 (s.busyEvent iv e).2 := rfl

theorem step_of_host {s : State} (hs : Spec.Sound s) {op : HostOp} {rest : List HostOp} (h : s.host = op :: rest) :
    step s = hostEvent op.event rest s := by
  rw [step_eq (broken_none_of_sound hs), h]

theorem hostEvent_cmd {addr w : Word} (ha : busOffset addr = 0x00C) (rest : List HostOp) (s : State) :
    hostEvent (.write addr w) rest s = issueCommand w rest s := if_pos ha

/-- Nothing the host does ends a clearing interval early. -/
theorem overlap_clearing (l : List HostOp) (s : State) : (State.overlap l .clearing s).1 = .clearing := by
  induction l generalizing s with
  | nil => rfl
  | cons op rest ih =>
    rw [State.overlap]
    split
    · have hiv : (s.busyEvent .clearing op.event).1 = .clearing := by
        cases op.event with
        | powerOnReset => rfl
        | write addr v => simp only [State.busyEvent]; split_ifs <;> rfl
        | read addr => simp only [State.busyEvent]; split_ifs <;> rfl
      simp only [hiv]
      exact ih _
    · rfl

/-- A reset inside a command aborts it: the step ends as a reset made while BUSY = 0 does (R250). -/
theorem issueCommand_of_isReset {e : HostEvent} (he : Spec.IsReset e) (w : Word) (rest : List HostOp) (s : State) :
    issueCommand w (⟨true, e⟩ :: rest) s = .next (s.resetWith rest) := by
  have hover : State.overlap (⟨true, e⟩ :: rest) .command (s.issue w) =
      (.clearing, (State.overlap rest .clearing s.startReset).2) := by
    rw [overlap_early, busyEvent_of_isReset he]
    exact Prod.ext (overlap_clearing rest s.startReset) rfl
  rw [issueCommand, hover]
  rfl

theorem step_of_startsReset {s : State} {ops rest : List HostOp} (hs : Spec.Sound s) (ho : Spec.StartsReset ops)
    (hhost : s.host = ops ++ rest) : step s = .next (s.resetWith rest) := by
  obtain ⟨early, e, he, rfl | ⟨addr, w, ha, rfl⟩⟩ := ho
  · rw [step_of_host hs hhost]
    exact hostEvent_of_isReset he rest s
  · rw [step_of_host hs hhost]
    exact (hostEvent_cmd ha _ s).trans (issueCommand_of_isReset he w rest s)

theorem resetWith_of_waits {rest : List HostOp} (h : Spec.Waits rest) (s : State) :
    s.resetWith rest = { State.reset with host := rest, reads := s.reads } := by
  rw [State.resetWith, overlap_of_waits h]; rfl

/-- One access inside the clearing interval. -/
theorem resetWith_access {rest : List HostOp} (h : Spec.Waits rest) (e : HostEvent) (s : State) :
    s.resetWith (⟨true, e⟩ :: rest) =
      { (s.startReset.busyEvent .clearing e).2 with host := rest, busy := false } := by
  rw [State.resetWith, overlap_early, overlap_of_waits h]

/-- Settles O9. -/
theorem resetRestoresEveryItem : Obligations.ResetRestoresEveryItem := by
  unfold Obligations.ResetRestoresEveryItem
  intro s early addr w e rest hs he hw hhost
  rw [← resetWith_of_waits hw]
  obtain hhost | ⟨ha, hhost⟩ := hhost
  · exact step_of_startsReset hs ⟨early, e, he, .inl rfl⟩ hhost
  · exact step_of_startsReset hs ⟨early, e, he, .inr ⟨addr, w, ha, rfl⟩⟩ hhost

/-! One access inside a BUSY interval (R256). -/

section

variable {s : State} {iv : Interval} {a v : Word}

theorem busyEvent_read_status (h : busOffset a = 0x008) :
    s.busyEvent iv (.read a) = (iv, s.logRead a s.statusWord) := if_pos h

theorem busyEvent_read_id (h : busOffset a = 0x000) : s.busyEvent iv (.read a) = (iv, s.logRead a idValue) := by
  rw [State.busyEvent, if_neg (by rw [h]; decide), if_pos h]

theorem busyEvent_read_other (h : busOffset a ≠ 0x008) (h' : busOffset a ≠ 0x000) :
    s.busyEvent iv (.read a) = (iv, (s.drop iv).logRead a 0) := by
  rw [State.busyEvent, if_neg (show ¬busOffset a = statusOffset from h), if_neg h']

theorem busyEvent_write_ctrl (h : busOffset a = 0x004) (hv : v.getLsbD 0 = false) :
    s.busyEvent iv (.write a v) = (iv, s.writeEnables v) := by
  rw [State.busyEvent, if_pos (show busOffset a = ctrlOffset from h), if_neg (by rw [hv]; decide)]

theorem busyEvent_write_status (h : busOffset a = 0x008) :
    s.busyEvent iv (.write a v) = (iv, s.writeStatus v) := by
  rw [State.busyEvent, if_neg (by rw [h]; decide), if_pos (show busOffset a = statusOffset from h)]

theorem busyEvent_write_other (h : busOffset a ≠ 0x004) (h' : busOffset a ≠ 0x008) :
    s.busyEvent iv (.write a v) = (iv, s.drop iv) := by
  rw [State.busyEvent, if_neg (show ¬busOffset a = ctrlOffset from h),
    if_neg (show ¬busOffset a = statusOffset from h')]

end

/-- Inside the clearing interval STATUS reads BUSY alone (assumption log 18). -/
theorem State.startReset_statusWord (s : State) : s.startReset.statusWord = 1 :=
  show ({ State.reset with busy := true } : State).statusWord = 1 by decide

/-- A step at a CMD write with one access inside the command's interval that leaves the command running: it ends where
the command ends, with what the access changed. -/
theorem step_cmd_access {s t : State} {early : Bool} {addr w : Word} {e : HostEvent} {rest : List HostOp} {i : Instr}
    (hs : Spec.Sound s) (hw : Spec.Waits rest) (ha : busOffset addr = 0x00C) (hd : decode w = .ok i)
    (ht : exec i (Spec.issued s w rest) = .next t)
    (hhost : s.host = ⟨early, .write addr w⟩ :: ⟨true, e⟩ :: rest) {haz ieDone ieErr : Bool}
    {reads : List (Word × Word)}
    (he : (s.issue w).busyEvent .command e = (.command, (s.issue w).withAccess haz ieDone ieErr reads)) :
    step s = .next (t.withAccess haz ieDone ieErr reads) := by
  rw [step_of_host hs hhost]
  refine (hostEvent_cmd ha _ s).trans ?_
  rw [issueCommand, overlap_early, he, overlap_of_waits hw]
  simp only [runWord, hd]
  exact exec_withAccess haz ieDone ieErr reads ht

/-- Settles O8: inside a command by `step_cmd_access`, inside a reset by `resetWith_access`. -/
theorem accessInsideBusyInterval : Obligations.AccessInsideBusyInterval := by
  unfold Obligations.AccessInsideBusyInterval
  intro s early addr w a v ops rest i hs hw
  refine ⟨fun ha hd => ?_, fun ho => ?_⟩
  · obtain ⟨t, ht⟩ := exec_next i (Spec.issued s w rest)
    obtain ⟨-, -, -, -, -, -, hhaz, hied, hiee, -, hreads⟩ := exec_keeps_host ht
    have hkeep : t = t.withAccess s.haz s.ieDone s.ieErr s.reads := by
      rw [State.withAccess, ← show t.haz = s.haz from hhaz, ← show t.ieDone = s.ieDone from hied,
        ← show t.ieErr = s.ieErr from hiee, ← show t.reads = s.reads from hreads]
    refine ⟨t, ht, fun hhost => ⟨fun h => ?_, fun h => ?_, fun h h' => ?_⟩,
      fun hhost => ⟨fun h hv => ?_, fun h => ?_, fun h h' => ?_⟩⟩
    · exact (step_cmd_access hs hw ha hd ht hhost (busyEvent_read_status h)).trans (by rw [hkeep]; rfl)
    · exact (step_cmd_access hs hw ha hd ht hhost (busyEvent_read_id h)).trans (by rw [hkeep]; rfl)
    · exact (step_cmd_access hs hw ha hd ht hhost (busyEvent_read_other h h')).trans (by rw [hkeep]; rfl)
    · exact (step_cmd_access hs hw ha hd ht hhost (busyEvent_write_ctrl h hv)).trans (by rw [hkeep]; rfl)
    · exact (step_cmd_access hs hw ha hd ht hhost (busyEvent_write_status h)).trans (by rw [hkeep]; rfl)
    · exact (step_cmd_access hs hw ha hd ht hhost (busyEvent_write_other h h')).trans (by rw [hkeep]; rfl)
  · intro cleared
    have hstep (e : HostEvent) (hhost : s.host = ops ++ ⟨true, e⟩ :: rest) :
        step s = .next { (s.startReset.busyEvent .clearing e).2 with host := rest, busy := false } := by
      rw [step_of_startsReset hs ho hhost, resetWith_access hw]
    refine ⟨fun hhost => ?_, fun hhost => ?_⟩ <;> rw [hstep _ hhost]
    · refine ⟨fun h => ?_, fun h => ?_, fun h h' => ?_⟩
      · rw [busyEvent_read_status h, State.startReset_statusWord]; rfl
      · rw [busyEvent_read_id h]; rfl
      · rw [busyEvent_read_other h h']; rfl
    · refine ⟨fun h hv => ?_, fun h hv => ?_, fun h => ?_⟩
      · rw [busyEvent_write_ctrl h hv]; rfl
      · rw [busyEvent_of_isReset (.inr ⟨a, v, rfl, h, hv⟩)]; rfl
      · by_cases h' : busOffset a = 0x008
        · rw [busyEvent_write_status h']; rfl
        · rw [busyEvent_write_other h h']; rfl

end Sys2Proof.Machine
end

section
/-! SUPPORT. What a host read returns at each window of the map while BUSY = 0 (R22-R38, R40-R43, R61, R64). -/

namespace Sys2Proof.Machine

/-! STATUS and CTRL (R23, R24), the interrupt line (R227). -/

theorem getLsbD_flagAt (b : Bool) {k : Nat} (hk : k < 32) (i : Nat) :
    (flagAt b k).getLsbD i = (b && decide (i = k)) := by
  rw [flagAt, BitVec.getLsbD_shiftLeft, BitVec.getLsbD_setWidth, BitVec.getLsbD_ofBool]
  rcases Nat.lt_trichotomy i k with h | rfl | h
  · simp [h, h.ne]
  · simp [hk]
  · simp [h.ne', show i - k ≠ 0 by omega]

theorem State.getLsbD_statusWord (s : State) (i : Nat) : s.statusWord.getLsbD i =
    ((s.busy && decide (i = 0)) || (s.done && decide (i = 1)) || (s.haz && decide (i = 2)) ||
      (decide (4 ≤ i) && s.err.getLsbD (i - 4)) || (s.configured && decide (i = 8))) := by
  have herr : (s.err.setWidth 32 <<< 4).getLsbD i = (decide (4 ≤ i) && s.err.getLsbD (i - 4)) := by
    rw [BitVec.getLsbD_shiftLeft, BitVec.getLsbD_setWidth]
    by_cases h₄ : 4 ≤ i
    · by_cases h₈ : i < 8
      · simp [h₄, show ¬i < 4 by omega, show i < 32 by omega, show i - 4 < 32 by omega]
      · simp [BitVec.getLsbD_of_ge s.err (i - 4) (by omega)]
    · simp [h₄]
  simp only [State.statusWord, BitVec.getLsbD_or, herr, getLsbD_flagAt _ (show (0 : Nat) < 32 by decide),
    getLsbD_flagAt _ (show 1 < 32 by decide), getLsbD_flagAt _ (show 2 < 32 by decide),
    getLsbD_flagAt _ (show 8 < 32 by decide)]

theorem State.getLsbD_ctrlWord (s : State) (i : Nat) :
    s.ctrlWord.getLsbD i = ((s.ieDone && decide (i = 1)) || (s.ieErr && decide (i = 2))) := by
  simp only [State.ctrlWord, BitVec.getLsbD_or, getLsbD_flagAt _ (show 1 < 32 by decide),
    getLsbD_flagAt _ (show 2 < 32 by decide)]

/-- Settles O13: the words of STATUS and CTRL bit by bit. -/
theorem statusBitsAndIrq : Obligations.StatusBitsAndIrq := by
  unfold Obligations.StatusBitsAndIrq
  intro s
  have hs : s.busRead 0x008 = s.statusWord := rfl
  have hc : s.busRead 0x004 = s.ctrlWord := rfl
  rw [hs, hc]
  simp only [State.getLsbD_statusWord, State.getLsbD_ctrlWord]
  refine ⟨⟨by simp, by simp, by simp, by simp, ?_, by simp, fun k hk => ?_⟩,
    ⟨by simp, by simp, by simp, fun k hk => ?_⟩, by simp [State.irq]⟩
  · refine BitVec.eq_of_getLsbD_eq fun k hk => ?_
    rw [BitVec.getLsbD_extractLsb', State.getLsbD_statusWord]
    simp [hk, show 4 + k ≠ 1 by omega, show 4 + k ≠ 2 by omega, show 4 + k ≠ 8 by omega]
  · rw [BitVec.getLsbD_of_ge s.err (k - 4) (by omega)]
    simp
    omega
  · simp
    omega

/-! Registers (R25-R38). -/

theorem State.busRead_channel (s : State) (c : BitVec 3) {k : Nat} (hk : k < 0x20) :
    s.busRead (0x100 + 0x20 * c.toNat + k) = (s.channel c).readReg k := by
  have hc := c.isLt
  have e : BitVec.ofNat 3 ((0x100 + 0x20 * c.toNat + k) / 0x20) = c :=
    BitVec.eq_of_toNat_eq (by rw [BitVec.toNat_ofNat]; omega)
  rw [State.busRead, if_neg (by omega), if_pos (by omega), e,
    show (0x100 + 0x20 * c.toNat + k) % 0x20 = k by omega]

theorem State.busRead_sfb (s : State) {b : Nat} (hb : b < 64) : (s.busRead (0x200 + 4 * b)).toNat = s.bound b := by
  rw [State.busRead, if_neg (by omega), if_neg (by omega), if_pos (by omega),
    show (0x200 + 4 * b - 0x200) / 4 = b by omega, BitVec.toNat_setWidth, Nat.mod_eq_of_lt (by omega)]
  rfl

theorem State.busRead_group (s : State) (g : BitVec 3) {k : Nat} (hk : k < 0x20) :
    s.busRead (0x300 + 0x20 * g.toNat + k) = (s.group g).readReg k := by
  have hg := g.isLt
  have e : BitVec.ofNat 3 ((0x300 + 0x20 * g.toNat + k) / 0x20) = g :=
    BitVec.eq_of_toNat_eq (by rw [BitVec.toNat_ofNat]; omega)
  rw [State.busRead, if_neg (by omega), if_neg (by omega), if_neg (by omega), if_pos (by omega), e,
    show (0x300 + 0x20 * g.toNat + k) % 0x20 = k by omega]

theorem State.busRead_sf (s : State) (c : BitVec 3) {b : Nat} (hb : b < 32) :
    s.busRead (0x400 + 0x80 * c.toNat + 4 * b) = ((s.channel c).sf.getD b 0).signExtend 32 := by
  have hc := c.isLt
  have e : BitVec.ofNat 3 ((0x400 + 0x80 * c.toNat + 4 * b) / 0x80) = c :=
    BitVec.eq_of_toNat_eq (by rw [BitVec.toNat_ofNat]; omega)
  rw [State.busRead, if_neg (by omega), if_neg (by omega), if_neg (by omega), if_neg (by omega), if_pos (by omega), e,
    show (0x400 + 0x80 * c.toNat + 4 * b) % 0x80 / 4 = b by omega]

theorem State.busRead_ang (s : State) (g : BitVec 3) {k : Nat} (hk : k < 32) :
    s.busRead (0x800 + 0x80 * g.toNat + 4 * k) = ((s.group g).ang.getD k 0).setWidth 32 := by
  have hg := g.isLt
  have e : BitVec.ofNat 3 ((0x800 + 0x80 * g.toNat + 4 * k) / 0x80) = g :=
    BitVec.eq_of_toNat_eq (by rw [BitVec.toNat_ofNat]; omega)
  rw [State.busRead, if_neg (by omega), if_neg (by omega), if_neg (by omega), if_neg (by omega), if_neg (by omega),
    if_pos (by omega), e, show (0x800 + 0x80 * g.toNat + 4 * k) % 0x80 / 4 = k by omega]

theorem State.busRead_mat (s : State) (g : BitVec 3) {i j : Nat} (hi : i < 8) (hj : j < 8) :
    s.busRead (0x1000 + 0x100 * g.toNat + 0x20 * i + 4 * j) = matGet (s.group g).mat i j := by
  have hg := g.isLt
  have e : BitVec.ofNat 3 ((0x1000 + 0x100 * g.toNat + 0x20 * i + 4 * j) / 0x100) = g :=
    BitVec.eq_of_toNat_eq (by rw [BitVec.toNat_ofNat]; omega)
  rw [State.busRead, if_neg (by omega), if_neg (by omega), if_neg (by omega), if_neg (by omega), if_neg (by omega),
    if_neg (by omega), if_neg (by omega), if_pos (by omega), e,
    show (0x1000 + 0x100 * g.toNat + 0x20 * i + 4 * j) % 0x100 / 0x20 = i by omega,
    show (0x1000 + 0x100 * g.toNat + 0x20 * i + 4 * j) % 0x20 / 4 = j by omega]

theorem State.busRead_table (s : State) (t : BitVec 4) : s.busRead (0x2000 + 4 * t.toNat) = (s.table t).word := by
  have ht := t.isLt
  have e : BitVec.ofNat 4 ((0x2000 + 4 * t.toNat) / 4) = t :=
    BitVec.eq_of_toNat_eq (by rw [BitVec.toNat_ofNat]; omega)
  rw [State.busRead, if_neg (by omega), if_neg (by omega), if_neg (by omega), if_neg (by omega), if_neg (by omega),
    if_neg (by omega), if_neg (by omega), if_neg (by omega), if_neg (by omega), if_pos (by omega), e]

/-! RAMs (R40-R43). -/

/-- Every word of a RAM window reads the four bytes of memory there (R61). -/
theorem State.busRead_inRam (s : State) {off : Nat} (h : InRam off) : s.busRead off = readWord s.mem off := by
  simp only [InRam, Config.pcmWords] at h
  rw [State.busRead, if_neg (by omega), if_neg (by omega), if_neg (by omega), if_neg (by omega), if_neg (by omega),
    if_neg (by omega), if_neg (by omega), if_neg (by omega), if_neg (by omega), if_neg (by omega), if_neg (by omega)]
  simp only [Config.pcmWords]
  split_ifs
  · rfl
  · rfl
  · omega
  · rfl
  · omega

theorem bytesWord_getLsbD (b₀ b₁ b₂ b₃ : Byte) {i : Nat} (hi : i < 8) :
    (bytesWord b₀ b₁ b₂ b₃).getLsbD i = b₀.getLsbD i ∧ (bytesWord b₀ b₁ b₂ b₃).getLsbD (8 + i) = b₁.getLsbD i ∧
      (bytesWord b₀ b₁ b₂ b₃).getLsbD (16 + i) = b₂.getLsbD i ∧
      (bytesWord b₀ b₁ b₂ b₃).getLsbD (24 + i) = b₃.getLsbD i := by
  simp only [bytesWord, BitVec.getLsbD_append]
  refine ⟨if_pos hi, ?_, ?_, ?_⟩
  · rw [if_neg (by omega), if_pos (by omega), Nat.add_sub_cancel_left]
  · rw [if_neg (by omega), if_neg (by omega), if_pos (by omega)]
    congr 1
    omega
  · rw [if_neg (by omega), if_neg (by omega), if_neg (by omega)]
    congr 1
    omega

/-- A word holds its bytes lowest address first (R64). -/
theorem readWord_byte (m : Memory) (a : Nat) {k : Nat} (hk : k < 4) :
    (readWord m a).extractLsb' (8 * k) 8 = readByte m (a + k) := by
  refine BitVec.eq_of_getLsbD_eq fun i hi => ?_
  obtain ⟨h₀, h₁, h₂, h₃⟩ :=
    bytesWord_getLsbD (readByte m a) (readByte m (a + 1)) (readByte m (a + 2)) (readByte m (a + 3)) hi
  rw [BitVec.getLsbD_extractLsb', decide_eq_true hi, Bool.true_and, readWord]
  match k, hk with
  | 0, _ => rw [Nat.mul_zero, Nat.zero_add]; exact h₀
  | 1, _ => exact h₁
  | 2, _ => exact h₂
  | 3, _ => exact h₃

/-- A word of OUT holds an even sample below an odd one (R43, R64). -/
theorem readWord_out (m : Memory) (w : Nat) :
    (readWord m (0x80000 + 4 * w)).extractLsb' 0 16 = out m (2 * w) ∧
      (readWord m (0x80000 + 4 * w)).extractLsb' 16 16 = out m (2 * w + 1) := by
  have e₀ : outAddr (2 * w) = 0x80000 + 4 * w := by unfold outAddr; omega
  have e₂ : outAddr (2 * w + 1) = 0x80000 + 4 * w + 2 := by unfold outAddr; omega
  have hbit := fun i (hi : i < 8) => bytesWord_getLsbD (readByte m (0x80000 + 4 * w))
    (readByte m (0x80000 + 4 * w + 1)) (readByte m (0x80000 + 4 * w + 2)) (readByte m (0x80000 + 4 * w + 3)) hi
  simp only [out, e₀, e₂, readWord]
  refine ⟨BitVec.eq_of_getLsbD_eq fun i hi => ?_, BitVec.eq_of_getLsbD_eq fun i hi => ?_⟩ <;>
    rw [BitVec.getLsbD_extractLsb', decide_eq_true hi, Bool.true_and, BitVec.getLsbD_append]
  · split
    · obtain ⟨hb, -, -, -⟩ := hbit i (by assumption)
      rw [Nat.zero_add, hb]
    · obtain ⟨-, hb, -, -⟩ := hbit (i - 8) (by omega)
      rw [← hb]
      congr 1
      omega
  · split
    · obtain ⟨-, -, hb, -⟩ := hbit i (by assumption)
      exact hb
    · obtain ⟨-, -, -, hb⟩ := hbit (i - 8) (by omega)
      rw [← hb]
      congr 1
      omega

/-! Reserved words and holes. -/

theorem Channel.readReg_of_ge (r : Channel) {k : Nat} (h : 0x10 ≤ k) : r.readReg k = 0 := by
  unfold Channel.readReg
  split <;> first | rfl | omega

theorem Group.readReg_of_ge (r : Group) {k : Nat} (h : 0x10 ≤ k) : r.readReg k = 0 := by
  unfold Group.readReg
  split <;> first | rfl | omega

theorem State.readControl_of_ge (s : State) {off : Nat} (h : 0x60 ≤ off) : s.readControl off = 0 := by
  unfold State.readControl
  split <;> first | rfl | omega

theorem State.busRead_reserved (s : State) {off : Nat} (h : (0x060 ≤ off ∧ off < 0x100) ∨
    (0x100 ≤ off ∧ off < 0x200 ∧ 0x10 ≤ off % 0x20) ∨ (0x284 ≤ off ∧ off < 0x300) ∨
    (0x300 ≤ off ∧ off < 0x400 ∧ 0x10 ≤ off % 0x20) ∨ (0x800 ≤ off ∧ off < 0xC00 ∧ 4 * 28 ≤ off % 0x80)) :
    s.busRead off = 0 := by
  unfold State.busRead
  obtain ⟨hlo, hhi⟩ | ⟨hlo, hhi, hk⟩ | ⟨hlo, hhi⟩ | ⟨hlo, hhi, hk⟩ | ⟨hlo, hhi, hk⟩ := h
  · rw [if_pos hhi]
    exact s.readControl_of_ge hlo
  · rw [if_neg (by omega), if_pos hhi]
    exact Channel.readReg_of_ge _ hk
  · rw [if_neg (by omega), if_neg (by omega), if_pos hhi]
    simp [Vector.getD, show ¬(off - 0x200) / 4 < 33 by omega]
  · rw [if_neg (by omega), if_neg (by omega), if_neg (by omega), if_pos hhi]
    exact Group.readReg_of_ge _ hk
  · rw [if_neg (by omega), if_neg (by omega), if_neg (by omega), if_neg (by omega), if_neg (by omega), if_pos hhi]
    simp [Vector.getD, show ¬off % 0x80 / 4 < 28 by omega]

theorem State.busRead_hole (s : State) {off : Nat} (h : (0xC00 ≤ off ∧ off < 0x1000) ∨ (0x1800 ≤ off ∧ off < 0x2000) ∨
    (0x2040 ≤ off ∧ off < 0x10000) ∨ 0x90000 ≤ off ∨ (0x40000 ≤ off ∧ off < 0x80000 ∧ ¬Spec.RamWindow off)) :
    s.busRead off = 0 := by
  unfold Spec.RamWindow at h
  rw [State.busRead, if_neg (by omega), if_neg (by omega), if_neg (by omega), if_neg (by omega), if_neg (by omega),
    if_neg (by omega)]
  simp only [Config.pcmWords]
  split_ifs <;> first | rfl | omega

/-- The fields of VLC_STATUS do not overlap (R38). -/
theorem VlcStatus.word_toNat (r : VlcStatus) :
    r.word.toNat = r.state.toNat + 2 ^ 8 * r.maxlen.toNat + 2 ^ 16 * r.count.toNat := by
  have hs := r.state.isLt
  have hm := r.maxlen.isLt
  have hc := r.count.isLt
  have em : (r.maxlen.setWidth 32 <<< 8).toNat = r.maxlen.toNat <<< 8 := by
    rw [BitVec.toNat_shiftLeft, BitVec.toNat_setWidth_of_le (by decide), Nat.mod_eq_of_lt]
    rw [Nat.shiftLeft_eq]; omega
  have ec : (r.count.setWidth 32 <<< 16).toNat = r.count.toNat <<< 16 := by
    rw [BitVec.toNat_shiftLeft, BitVec.toNat_setWidth_of_le (by decide), Nat.mod_eq_of_lt]
    rw [Nat.shiftLeft_eq]; omega
  rw [VlcStatus.word, BitVec.toNat_or, BitVec.toNat_or, em, ec,
    BitVec.toNat_setWidth_of_le (by decide), Nat.lor_comm r.state.toNat, ← Nat.shiftLeft_add_eq_or_of_lt (by omega),
    Nat.lor_comm, ← Nat.shiftLeft_add_eq_or_of_lt (by rw [Nat.shiftLeft_eq]; omega), Nat.shiftLeft_eq, Nat.shiftLeft_eq]
  omega

/-- A field below a flag (R31, R35). -/
theorem toNat_or_flagAt {n k : Nat} (x : BitVec n) (hn : n ≤ k) (hk : k < 32) (b : Bool) :
    (x.setWidth 32 ||| flagAt b k).toNat = x.toNat + if b then 2 ^ k else 0 := by
  have hx : x.toNat < 2 ^ k := lt_of_lt_of_le x.isLt (Nat.pow_le_pow_right (by decide) hn)
  cases b with
  | false => simp [flagAt, BitVec.toNat_setWidth_of_le (show n ≤ 32 by omega)]
  | true =>
    have hflag : (flagAt true k).toNat = 1 <<< k := by
      rw [flagAt, BitVec.toNat_shiftLeft]
      refine Nat.mod_eq_of_lt ?_
      rw [Nat.shiftLeft_eq]
      simpa using Nat.pow_lt_pow_right (by decide) hk
    rw [BitVec.toNat_or, hflag, BitVec.toNat_setWidth_of_le (by omega), Nat.lor_comm,
      ← Nat.shiftLeft_add_eq_or_of_lt hx, Nat.shiftLeft_eq, if_pos rfl, Nat.one_mul, Nat.add_comm]

/-- The registers at 0x000-0x0FF (R22-R31). -/
theorem State.busRead_control (s : State) :
    s.busRead 0x000 = 0x53313833#32 ∧ s.busRead 0x00C = s.lastCmd ∧ s.busRead 0x010 = s.arg0 ∧
      s.busRead 0x014 = s.arg1 ∧ s.busRead 0x018 = s.arg2 ∧ s.busRead 0x01C = 0 ∧ s.busRead 0x020 = s.res0 ∧
      s.busRead 0x03C = 0 ∧ s.busRead 0x024 = s.res1 ∧ s.busRead 0x028 = s.errCmd ∧ s.busRead 0x02C = s.errInfo ∧
      (s.busRead 0x030).toNat = s.brStart.toNat ∧ (s.busRead 0x034).toNat = s.brLen.toNat ∧
      (s.busRead 0x038).toNat = s.brPos.toNat ∧ (s.busRead 0x040).toNat = s.cfgNch.toNat ∧
      (s.busRead 0x044).toNat = s.cfgSpf.toNat ∧ (s.busRead 0x048).toNat = s.cfgMaxsub.toNat ∧
      (s.busRead 0x04C).toNat = s.remap6.toNat ∧ (s.busRead 0x050).toNat = s.subN.toNat ∧
      (s.busRead 0x054).toNat = s.subOff.toNat ∧ (s.busRead 0x058).toNat % 2 ^ 31 = s.subNb.toNat ∧
      (s.busRead 0x058).getLsbD 31 = s.subValid ∧ (s.busRead 0x05C).toInt = s.qstep.toInt := by
  have hext {n : Nat} (x : BitVec n) (hn : n ≤ 32) : (x.setWidth 32).toNat = x.toNat := BitVec.toNat_setWidth_of_le hn
  have hsub : s.busRead 0x058 = s.subNb.setWidth 32 ||| flagAt s.subValid 31 := rfl
  refine ⟨rfl, rfl, rfl, rfl, rfl, rfl, rfl, rfl, rfl, rfl, rfl, hext s.brStart (by decide), hext s.brLen (by decide),
    hext s.brPos (by decide), hext s.cfgNch (by decide), hext s.cfgSpf (by decide), hext s.cfgMaxsub (by decide),
    hext s.remap6 (by decide), hext s.subN (by decide), hext s.subOff (by decide), ?_, ?_,
    BitVec.toInt_signExtend_of_le (x := s.qstep) (by decide)⟩
  · have hnb := s.subNb.isLt
    rw [hsub, toNat_or_flagAt _ (by decide) (by decide)]
    split <;> omega
  · rw [hsub, BitVec.getLsbD_or, getLsbD_flagAt _ (by decide), BitVec.getLsbD_setWidth,
      BitVec.getLsbD_of_ge s.subNb 31 (by decide)]
    simp

/-- Settles O14, window by window. -/
theorem busReadsTheRegisterMap : Obligations.BusReadsTheRegisterMap := by
  unfold Obligations.BusReadsTheRegisterMap
  intro s
  refine ⟨s.busRead_control, fun c => ?channel, fun w hw => ?byteRams, fun c i hc => ?wordRams,
    fun b hb => s.busRead_sfb (by omega), fun g => ?group, fun t => ?table,
    fun off h => s.busRead_reserved h, fun off h => s.busRead_hole h⟩
  case channel =>
    have hreg := fun k (hk : k < 0x20) => s.busRead_channel c hk
    have e₁ : 0x104 + 0x20 * c.toNat = 0x100 + 0x20 * c.toNat + 4 := by omega
    have e₂ : 0x108 + 0x20 * c.toNat = 0x100 + 0x20 * c.toNat + 8 := by omega
    have e₃ : 0x10C + 0x20 * c.toNat = 0x100 + 0x20 * c.toNat + 12 := by omega
    rw [e₁, e₂, e₃, hreg 4 (by decide), hreg 8 (by decide), hreg 12 (by decide),
      show s.busRead (0x100 + 0x20 * c.toNat) = _ from hreg 0 (by decide)]
    simp only [Channel.readReg]
    refine ⟨BitVec.toNat_setWidth_of_le (by decide), BitVec.toInt_signExtend_of_le (by decide),
      BitVec.toNat_setWidth_of_le (by decide),
      BitVec.toInt_signExtend_of_le (by decide), fun b hb => ?_⟩
    rw [s.busRead_sf c hb]
    exact BitVec.toInt_signExtend_of_le (by decide)
  case byteRams =>
    rw [s.busRead_inRam (by unfold InRam; omega), s.busRead_inRam (by unfold InRam; omega)]
    exact ⟨fun k hk => readWord_byte s.mem _ hk, readWord_out s.mem w⟩
  case wordRams =>
    exact ⟨fun hi => s.busRead_inRam (by unfold InRam; omega),
      fun hi => s.busRead_inRam (by unfold InRam; simp only [Config.pcmWords]; omega)⟩
  case group =>
    have hreg := fun k (hk : k < 0x20) => s.busRead_group g hk
    have e₁ : 0x304 + 0x20 * g.toNat = 0x300 + 0x20 * g.toNat + 4 := by omega
    have e₂ : 0x308 + 0x20 * g.toNat = 0x300 + 0x20 * g.toNat + 8 := by omega
    have e₃ : 0x30C + 0x20 * g.toNat = 0x300 + 0x20 * g.toNat + 12 := by omega
    rw [e₁, e₂, e₃, hreg 4 (by decide), hreg 8 (by decide), hreg 12 (by decide),
      show s.busRead (0x300 + 0x20 * g.toNat) = _ from hreg 0 (by decide)]
    refine ⟨rfl, toNat_or_flagAt _ (by decide) (by decide) _, rfl,
      BitVec.toNat_setWidth_of_le (by decide), fun k hk => ?_, fun i j hi hj => s.busRead_mat g hi hj⟩
    rw [s.busRead_ang g (by omega)]
    exact BitVec.toNat_setWidth_of_le (by decide)
  case table =>
    rw [s.busRead_table t]
    exact VlcStatus.word_toNat _

end Sys2Proof.Machine
end

section
/-! SUPPORT. OUT_EMIT (R203, R204): the interleaved frame in OUT and the shift of the history in PCM. -/

namespace Sys2Proof.Machine

/-! Samples of OUT (R43). -/

theorem flatMap_sampleBytes_getD (xs : List (BitVec 16)) (i k : Nat) (hk : k < 2) (hi : i < xs.length) :
    (xs.flatMap sampleBytes).getD (2 * i + k) 0 = (sampleBytes (xs.getD i 0)).getD k 0 := by
  induction xs generalizing i with
  | nil => simp at hi
  | cons x xs ih =>
    have hlen : (sampleBytes x).length = 2 := rfl
    cases i with
    | zero =>
      rw [List.flatMap_cons, Nat.mul_zero, Nat.zero_add, List.getD_append _ _ _ _ (by omega), List.getD_cons_zero]
    | succ i =>
      rw [List.flatMap_cons, List.getD_append_right _ _ _ _ (by omega), List.getD_cons_succ,
        ← ih i (by simpa using hi), hlen]
      congr 1
      omega

theorem sampleBytes_append (x : BitVec 16) : (sampleBytes x).getD 1 0 ++ (sampleBytes x).getD 0 0 = x := by
  refine BitVec.eq_of_getLsbD_eq fun i hi => ?_
  change (x.extractLsb' 8 8 ++ x.extractLsb' 0 8).getLsbD i = _
  rw [BitVec.getLsbD_append]
  split
  · simp [*]
  · rw [BitVec.getLsbD_extractLsb', decide_eq_true (by omega), Bool.true_and, Nat.add_sub_cancel' (by omega)]

/-- A sample after a list of samples is written from OUT[0] on. -/
theorem out_writeBytes (m : Memory) (xs : List (BitVec 16)) {k : Nat} (hk : k < xs.length) :
    out (writeBytes m (outAddr 0) (xs.flatMap sampleBytes)) k = xs.getD k 0 := by
  have e₀ : outAddr k - outAddr 0 = 2 * k + 0 := by unfold outAddr; omega
  have e₁ : outAddr k + 1 - outAddr 0 = 2 * k + 1 := by unfold outAddr; omega
  have hin : outAddr 0 ≤ outAddr k ∧ outAddr k + 1 < outAddr 0 + 2 * xs.length := by unfold outAddr; omega
  rw [out, readByte_writeBytes, readByte_writeBytes, flatMap_sampleBytes_length, if_pos (by omega),
    if_pos (by omega), e₀, e₁, flatMap_sampleBytes_getD xs k 1 (by decide) hk,
    flatMap_sampleBytes_getD xs k 0 (by decide) hk]
  exact sampleBytes_append _

/-! The shift of the history (R203). -/

/-- The samples of a channel after its own shift. -/
def shifted (spf : Nat) (m : Memory) (c i : Nat) : F32 :=
  if i < spf / 2 then pcm m c (spf + i) else if i < 3 * spf / 2 then 0 else pcm m c i

theorem pcm_shiftHistory {spf : Nat} (hspf : spf ≤ 4096) (m : Memory) (d c : Nat) {i : Nat} (hi : i < 6144) :
    pcm (shiftHistory spf m d) c i = if c = d then shifted spf m c i else pcm m c i := by
  simp only [shiftHistory]
  rw [pcm_eraseBytes _ _ _ _ _ _ (by omega) hi, pcm_writeWords _ _ _ _ _ _ (by simp; omega) hi]
  simp only [List.length_map, List.length_range, shifted]
  by_cases hc : c = d
  · subst hc
    rcases Nat.lt_or_ge i (spf / 2) with h | h
    · rw [if_neg (by omega), if_pos (by omega), if_pos rfl, if_pos h]
      simp [h]
    · rw [if_pos rfl, if_neg (not_lt.2 h)]
      by_cases h' : i < 3 * spf / 2
      · rw [if_pos (by omega), if_pos h']
      · rw [if_neg (by omega), if_neg (by omega), if_neg h']
  · rw [if_neg (by tauto), if_neg (by tauto), if_neg hc]

/-- The shift of a channel reads its own samples only. -/
theorem shifted_congr {spf : Nat} (hspf : spf ≤ 4096) {m m' : Memory} {c : Nat}
    (h : ∀ i, i < 6144 → pcm m c i = pcm m' c i) {i : Nat} (hi : i < 6144) :
    shifted spf m c i = shifted spf m' c i := by
  unfold shifted
  split_ifs
  · exact h _ (by omega)
  · rfl
  · exact h i hi

/-- The channels below n are shifted, each by its own samples; the others are as before. -/
theorem pcm_shiftAll {spf : Nat} (hspf : spf ≤ 4096) (m : Memory) (n c : Nat) : ∀ i, i < 6144 →
    pcm ((List.range n).foldl (shiftHistory spf) m) c i = if c < n then shifted spf m c i else pcm m c i := by
  induction n with
  | zero => intro i _; rfl
  | succ n ih =>
    intro i hi
    rw [List.range_succ, List.foldl_append, List.foldl_cons, List.foldl_nil, pcm_shiftHistory hspf _ _ _ hi]
    rcases Nat.lt_trichotomy c n with h | rfl | h
    · rw [if_neg h.ne, ih i hi, if_pos h, if_pos (by omega)]
    · rw [if_pos rfl, if_pos (by omega)]
      exact shifted_congr hspf (fun j hj => (ih j hj).trans (if_neg (lt_irrefl c))) hi
    · rw [if_neg h.ne', ih i hi, if_neg (by omega), if_neg (by omega)]

/-- The shifts write the first 3S/2 samples of their channels only. -/
theorem readByte_shiftAll {spf n a : Nat} (m : Memory)
    (h : ∀ c, c < n → a < pcmAddr c 0 ∨ pcmAddr c (3 * spf / 2) ≤ a) :
    readByte ((List.range n).foldl (shiftHistory spf) m) a = readByte m a := by
  have hedit : Edited (fun b l => ∃ c, c < n ∧ pcmAddr c 0 ≤ b ∧ b + l ≤ pcmAddr c (3 * spf / 2)) m
      ((List.range n).foldl (shiftHistory spf) m) := by
    refine Edited.refl.foldl fun c hc m' hm => ?_
    have hlt := List.mem_range.1 hc
    refine (hm.writeWords ⟨c, hlt, le_rfl, ?_⟩).erase ⟨c, hlt, ?_⟩
    · simp only [List.length_map, List.length_range, pcmAddr]
      omega
    · unfold pcmAddr
      omega
  refine hedit.readByte_eq ?_
  rintro b l ⟨c, hc, hlo, hhi⟩ hb
  have := h c hc
  omega

/-- The bytes of OUT are not bytes of PCM (R61). -/
theorem pcm_writeBytes_out (m : Memory) (bs : List Byte) {c i : Nat} (hc : c < 8) (hi : i < 6144) :
    pcm (writeBytes m (outAddr 0) bs) c i = pcm m c i := by
  refine readWord_congr fun k hk => ?_
  rw [readByte_writeBytes, if_neg]
  unfold pcmAddr outAddr
  omega

/-- The samples of OUT keep their values while PCM is shifted. -/
theorem out_shiftAll {spf n : Nat} (hspf : spf ≤ 4096) (hn : n ≤ 8) (m : Memory) (k : Nat) :
    out ((List.range n).foldl (shiftHistory spf) m) k = out m k := by
  have hfar (a : Nat) (ha : outAddr 0 ≤ a) : ∀ c, c < n → a < pcmAddr c 0 ∨ pcmAddr c (3 * spf / 2) ≤ a := by
    intro c hc
    right
    unfold outAddr at ha
    unfold pcmAddr
    omega
  rw [out, readByte_shiftAll m (hfar _ (by unfold outAddr; omega)),
    readByte_shiftAll m (hfar _ (by unfold outAddr; omega)), out]

/-- Sample i·C + j of the frame is sample i of the channel of slot j (R203). -/
theorem State.outSample_interleaved (s : State) {i j : Nat} (hj : j < s.cfgNch.toNat) :
    s.outSample (i * s.cfgNch.toNat + j) =
      clip16 (pcm s.mem (if s.cfgNch.toNat = 6 then s.remap6.toNat / 16 ^ j % 16 else j) i) := by
  have hslot : s.slotChannel j = if s.cfgNch.toNat = 6 then s.remap6.toNat / 16 ^ j % 16 else j := by
    rw [State.slotChannel, nibble, BitVec.toNat_setWidth_of_le (by decide)]
  have hmod : (i * s.cfgNch.toNat + j) % s.cfgNch.toNat = j := by
    rw [Nat.mul_add_mod', Nat.mod_eq_of_lt hj]
  have hdiv : (i * s.cfgNch.toNat + j) / s.cfgNch.toNat = i := by
    rw [Nat.mul_comm, Nat.mul_add_div (by omega), Nat.div_eq_of_lt hj, Nat.add_zero]
  rw [State.outSample, hmod, hdiv, hslot]

/-- Settles O50: the frame by `out_writeBytes`, the history by `pcm_shiftAll`. -/
theorem outEmitEmitsAndShifts : Obligations.OutEmitEmitsAndShifts := by
  unfold Obligations.OutEmitEmitsAndShifts
  refine ⟨by decide, fun s hr hi => ?_⟩
  intro nch spf
  obtain ⟨-, -, -, hcfg, -⟩ := hi
  obtain ⟨⟨-, hnch, -, -, hspf, -⟩, -⟩ := hcfg hr.2
  replace hnch : nch ≤ 8 := hnch
  replace hspf : spf ≤ 4096 := hspf
  have hlen : ((List.range (nch * spf)).map s.outSample).length = nch * spf := by simp
  refine ⟨_, runConfigured_ok hr _, rfl, fun i j hi hj => ?frame, fun c i hc hi => ?tail,
    fun c i hc hlo hhi => ?zeros, fun a ha hpcm => ?others⟩
  case frame =>
    have hk : i * nch + j < nch * spf := by
      calc i * nch + j < i * nch + nch := by omega
        _ = (i + 1) * nch := by ring
        _ ≤ spf * nch := Nat.mul_le_mul_right _ hi
        _ = nch * spf := Nat.mul_comm _ _
    refine (out_shiftAll hspf hnch _ _).trans ((out_writeBytes _ _ (by rwa [hlen])).trans ?_)
    rw [← s.outSample_interleaved hj, List.getD_eq_getElem _ _ (by rwa [hlen])]
    simp only [List.getElem_map, List.getElem_range]
    rfl
  case tail =>
    refine (pcm_shiftAll hspf _ _ _ _ (by omega)).trans ?_
    rw [if_pos hc, shifted, if_pos hi]
    exact pcm_writeBytes_out _ _ (by omega) (by omega)
  case zeros =>
    refine (pcm_shiftAll hspf _ _ _ _ (by omega)).trans ?_
    rw [if_pos hc, shifted, if_neg (by omega), if_pos hhi]
  case others =>
    refine (readByte_shiftAll _ hpcm).trans ?_
    rw [readByte_writeBytes, if_neg]
    rw [flatMap_sampleBytes_length, hlen]
    unfold outAddr at ha ⊢
    omega

end Sys2Proof.Machine
end

section
/-! SUPPORT. The bit commands read BBUF only inside the window (R67, R100, R110 L5). -/

namespace Sys2Proof.Machine

/-! A change of the state that the frame of every command lets through. -/

/-- `f` leaves alone what the frame of a command reads and writes: the lock, error entry and completion (R222-R224). -/
structure KeepsFrame (f : State → State) : Prop where
  err_eq : ∀ s, (f s).err = s.err
  complete_eq : ∀ s, (f s).complete = f s.complete
  raise_eq : ∀ s e, (f s).raise e = f (s.raise e)

/-- If the result of a command commutes with such a change, its outcome does. -/
theorem run_map {f : State → State} (hf : KeepsFrame f) {s u : State} {r r' : Except CmdError State}
    (h : run s r = .next u) (hr : r' = r.map f) : run (f s) r' = .next (f u) := by
  rw [hr]
  by_cases he : s.err = 0
  · cases r with
    | ok t =>
      rw [run_ok he] at h
      rw [← Host.Outcome.next.inj h, ← hf.complete_eq]
      exact run_ok ((hf.err_eq s).trans he) (f t)
    | error e =>
      rw [run_error he] at h
      rw [← Host.Outcome.next.inj h, ← hf.complete_eq, ← hf.raise_eq]
      exact run_error ((hf.err_eq s).trans he) e
  · rw [run_locked he] at h
    rw [← Host.Outcome.next.inj h, ← hf.complete_eq]
    exact run_locked (by rwa [hf.err_eq]) _

/-- A check commutes with a change of the state if the rest does once the check has passed. -/
theorem check_map {f : State → State} {c : Prop} [Decidable c] {e : CmdError} {r r' : Except CmdError State}
    (hr : ¬c → r' = r.map f) : (if c then .error e else r') = (if c then .error e else r).map f := by
  split
  · rfl
  · exact hr ‹_›

/-! What the reads of the window depend on (R100, R106). -/

theorem State.windowBit_eq_bit (s : State) (p : Nat) : s.windowBit p = Spec.bit s p := rfl

theorem State.windowBits_congr {s s' : State} {p n : Nat}
    (h : ∀ k, k < n → s.windowBit (p + k) = s'.windowBit (p + k)) :
    s.windowBits p n = s'.windowBits p n := by
  induction n with
  | zero => rfl
  | succ n ih =>
    rw [State.windowBits, State.windowBits, ih fun k hk => h k (by omega), h n (by omega)]

/-- The match of BR_VLC reads no bit past its limit. -/
theorem State.vlcMatch_congr {s s' : State} (es : List VlcEntry) {limit : Nat} (hpos : s.brPos = s'.brPos)
    (h : ∀ k, k < limit → s.windowBit (s.brPos.toNat + k) = s'.windowBit (s.brPos.toNat + k)) :
    s.vlcMatch es limit = s'.vlcMatch es limit := by
  have hbits (l : Nat) (hl : l ∈ List.range' 1 limit) :
      s.windowBits s.brPos.toNat l = s'.windowBits s'.brPos.toNat l := by
    obtain ⟨-, hlt⟩ := List.mem_range'_1.1 hl
    rw [← hpos]
    exact State.windowBits_congr fun k hk => h k (by omega)
  rw [State.vlcMatch, State.vlcMatch, ← List.head?_filterMap, ← List.head?_filterMap,
    List.filterMap_congr fun l hl => by rw [hbits l hl]]

/-! Memory outside the window. -/

/-- `s` with another memory. -/
def State.withMem (m : Memory) (s : State) : State := { s with mem := m }

theorem keepsFrame_withMem (m : Memory) : KeepsFrame (State.withMem m) := ⟨fun _ => rfl, fun _ => rfl, fun _ _ => rfl⟩

/-- The memory `m` agrees with that of `s` on the bits of the window. -/
def SameWindow (s : State) (m : Memory) : Prop :=
  ∀ p, p < s.brLen.toNat → s.windowBit p = (s.withMem m).windowBit p

section

variable {s : State} {m : Memory}

theorem SameWindow.windowBits_eq (h : SameWindow s m) {n : Nat} (hn : s.brPos.toNat + n ≤ s.brLen.toNat) :
    (s.withMem m).windowBits s.brPos.toNat n = s.windowBits s.brPos.toNat n :=
  (State.windowBits_congr fun k hk => h _ (by omega)).symm

/-- BR_VLC looks at no more bits than are left (R106). -/
theorem SameWindow.vlcMatch_eq (h : SameWindow s m) (es : List VlcEntry) {limit : Nat}
    (hl : limit ≤ s.brLen.toNat - s.brPos.toNat) : (s.withMem m).vlcMatch es limit = s.vlcMatch es limit :=
  (State.vlcMatch_congr (s := s) (s' := s.withMem m) es rfl fun k hk => h _ (by omega)).symm

/-- Each bit command commutes with a change of memory outside the window: BR_READ and BR_PEEK read after the check that
the bits are there, BR_VLC no more than are left, the others nothing. -/
theorem exec_withMem {i : Instr} {u : State} (hi : Spec.isBitCommand i = true) (hw : SameWindow s m)
    (h : exec i s = .next u) : exec i (s.withMem m) = .next (u.withMem m) := by
  have hf := keepsFrame_withMem m
  cases i with
  | brTell => exact run_map hf h rfl
  | brInit | brSkip | vlcBegin => exact run_map hf h (check_map fun _ => rfl)
  | vlcAdd | vlcEnd => exact run_map hf h (check_map fun _ => check_map fun _ => rfl)
  | brRead n | brPeek n =>
    refine run_map hf h (check_map fun _ => check_map fun hn => ?_)
    rw [show (s.withMem m).brPos = s.brPos from rfl, hw.windowBits_eq (Nat.not_lt.1 hn)]
    rfl
  | brVlc t =>
    have hm : (s.withMem m).vlcMatch ((s.withMem m).vlcEntries t) (min ((s.withMem m).table t).maxlen.toNat
          ((s.withMem m).brLen.toNat - (s.withMem m).brPos.toNat)) =
        s.vlcMatch (s.vlcEntries t) (min (s.table t).maxlen.toNat (s.brLen.toNat - s.brPos.toNat)) :=
      hw.vlcMatch_eq _ (Nat.min_le_right _ _)
    refine run_map hf h (check_map fun _ => ?_)
    rw [hm]
    cases s.vlcMatch (s.vlcEntries t) (min (s.table t).maxlen.toNat (s.brLen.toNat - s.brPos.toNat)) with
    | some e => rfl
    | none => exact check_map fun _ => rfl
  | _ => exact absurd hi Bool.false_ne_true

end

/-- Settles O27: the bits of the window are all a bit command reads of memory. -/
theorem bitReaderReadsOnlyTheWindow : Obligations.BitReaderReadsOnlyTheWindow := by
  unfold Obligations.BitReaderReadsOnlyTheWindow
  intro s u m i hi hbit h
  have hw : SameWindow s m := fun p hp => by
    rw [State.windowBit_eq_bit, State.windowBit_eq_bit]
    exact hbit p hp
  exact exec_withMem hi hw h

end Sys2Proof.Machine
end

section
/-! SUPPORT. The host's accesses while BUSY = 0 (R61-R64, R233). -/

namespace Sys2Proof.Machine

/-! A host write, one lemma per class of offset (R61, R63). -/

section

variable (s : State) (v : Word)

theorem State.busWrite_ctrl : s.busWrite 0x004 v = { s with ieDone := v.getLsbD 1, ieErr := v.getLsbD 2 } := rfl

theorem State.busWrite_status :
    s.busWrite 0x008 v = { s with done := s.done && !v.getLsbD 1, haz := s.haz && !v.getLsbD 2 } := rfl

theorem State.busWrite_arg0 : s.busWrite 0x010 v = { s with arg0 := v } := rfl

theorem State.busWrite_arg1 : s.busWrite 0x014 v = { s with arg1 := v } := rfl

theorem State.busWrite_arg2 : s.busWrite 0x018 v = { s with arg2 := v } := rfl

/-- At an offset that is no writable register only the RAM windows are left. -/
theorem State.busWrite_of_no_register {off : Nat} (h : off ∉ [0x004, 0x008, 0x010, 0x014, 0x018]) :
    s.busWrite off v = if ramWritable off then { s with mem := writeWords s.mem off [v] } else s := by
  simp only [List.mem_cons, List.not_mem_nil, or_false, not_or] at h
  obtain ⟨hctrl, hstatus, harg₀, harg₁, harg₂⟩ := h
  rw [State.busWrite, if_neg (show ¬off = ctrlOffset from hctrl), if_neg (show ¬off = statusOffset from hstatus),
    if_neg harg₀, if_neg harg₁, if_neg harg₂]

/-- The RAM windows lie above the registers. -/
theorem ramWindow_ge {off : Nat} (h : Spec.RamWindow off) : 0x10000 ≤ off :=
  h.elim (·.1) fun ⟨hlo, _⟩ => by omega

theorem State.busWrite_ram {off : Nat} (h : Spec.RamWindow off) :
    s.busWrite off v = { s with mem := writeWords s.mem off [v] } := by
  have hge := ramWindow_ge h
  rw [s.busWrite_of_no_register v (by simp only [List.mem_cons, List.not_mem_nil, or_false]; omega),
    if_pos ((ramWritable_iff off).2 h)]

theorem State.busWrite_ignored {off : Nat} (h : ¬Spec.RamWindow off)
    (hreg : off ∉ [0x004, 0x008, 0x010, 0x014, 0x018]) : s.busWrite off v = s := by
  rw [s.busWrite_of_no_register v hreg, if_neg (mt (ramWritable_iff off).1 h)]

end

/-! One written word (R64). -/

theorem readWord_writeWord (m : Memory) (a : Nat) (v : Word) : readWord (writeWords m a [v]) a = v := by
  rw [readWord_writeWords _ _ _ _ (by omega), if_pos (by simp)]
  simp

theorem readByte_writeWord_outside (m : Memory) {a x : Nat} (v : Word) (h : x < a ∨ a + 4 ≤ x) :
    readByte (writeWords m a [v]) x = readByte m x := by
  rw [readByte_writeWords, if_neg]
  simp only [List.length_singleton]
  omega

/-! The step. -/

section

variable {s : State} {early : Bool} {addr v : Word} {rest : List HostOp}

theorem step_idle (hs : Spec.Sound s) (h : s.host = []) : step s = .next s := by
  rw [step_eq (broken_none_of_sound hs), h]

theorem step_read (hs : Spec.Sound s) (h : s.host = ⟨early, .read addr⟩ :: rest) :
    step s = .next { s with host := rest, reads := (addr, s.busRead (busOffset addr)) :: s.reads } := by
  rw [step_of_host hs h]; rfl

/-- A write that neither issues a command nor starts a reset: the step is the bus write. -/
theorem step_write (hs : Spec.Sound s) (h : s.host = ⟨early, .write addr v⟩ :: rest) {off : Nat}
    (ha : busOffset addr = off) (hcmd : off ≠ 0x00C) (hreset : off = 0x004 → v.getLsbD 0 = false) {u : State}
    (hu : { s with host := rest }.busWrite off v = u) : step s = .next u := by
  have hno : ¬((off = ctrlOffset && v.getLsbD 0) = true) := by
    intro hb
    simp only [Bool.and_eq_true, decide_eq_true_eq] at hb
    obtain ⟨hoff, hset⟩ := hb
    exact absurd (hreset hoff) (by rw [hset]; decide)
  rw [step_of_host hs h, hostEvent, ha, if_neg (show ¬off = cmdOffset from hcmd), if_neg hno, hu]

end

/-- A host write to a RAM window stores its four bytes, and a read returns the value. -/
theorem ram_write_effect {s u : State} {addr v : Word} (hram : Spec.RamWindow (busOffset addr))
    (hu : u.mem = writeWords s.mem (busOffset addr) [v]) :
    (∀ k, k < 4 → readByte u.mem (busOffset addr + k) = v.extractLsb' (8 * k) 8) ∧
      (∀ a, a < busOffset addr ∨ busOffset addr + 4 ≤ a → Spec.SameByte s u a) ∧ u.busRead (busOffset addr) = v := by
  have hword : readWord u.mem (busOffset addr) = v := by rw [hu, readWord_writeWord]
  refine ⟨fun k hk => ?_, fun a ha => ?_, ?_⟩
  · rw [← readWord_byte _ _ hk, hword]
  · rw [Spec.SameByte, hu, readByte_writeWord_outside _ v ha]
  · rw [State.busRead_inRam u (inRam_of_word ((ramWritable_iff _).2 hram) le_rfl (by omega)), hword]

/-- Settles O12: the step is the bus write, and each class of offset has its lemma. -/
theorem hostAccessEffects : Obligations.HostAccessEffects := by
  unfold Obligations.HostAccessEffects
  intro s early addr v rest hs
  refine ⟨step_idle hs, step_read hs, fun h => ⟨fun hram => ?_, fun ha => ?_, fun ha => ?_, fun ha => ?_,
    fun ha hv => ?_, fun ha => ?_, fun hram hreg => ?_⟩⟩
  · have hge := ramWindow_ge hram
    exact ⟨_, step_write hs h rfl (by omega) (by omega) (State.busWrite_ram _ v hram), rfl, ram_write_effect hram rfl⟩
  · exact step_write hs h ha (by decide) (by omega) (State.busWrite_arg0 _ v)
  · exact step_write hs h ha (by decide) (by omega) (State.busWrite_arg1 _ v)
  · exact step_write hs h ha (by decide) (by omega) (State.busWrite_arg2 _ v)
  · exact step_write hs h ha (by decide) (fun _ => hv) (State.busWrite_ctrl _ v)
  · exact step_write hs h ha (by decide) (by omega) (State.busWrite_status _ v)
  · simp only [List.mem_cons, List.not_mem_nil, or_false, not_or] at hreg
    obtain ⟨hctrl, hstatus, hcmd, harg⟩ := hreg
    have hno : busOffset addr ∉ [0x004, 0x008, 0x010, 0x014, 0x018] := by
      simp only [List.mem_cons, List.not_mem_nil, or_false, not_or]
      exact ⟨hctrl, hstatus, harg⟩
    exact step_write hs h rfl hcmd (absurd · hctrl) (State.busWrite_ignored _ v hram hno)

end Sys2Proof.Machine
end

section
/-! SUPPORT. The command word (R80-R86): a word is a command exactly when it matches the command's row of the opcode table
and the command's fields are the word's, so decoding and encoding are inverse to each other. -/

namespace Sys2Proof

/-! The decoder's table, read per command (R81, R84). -/

/-- The format of a command (R84). -/
def formatOf : Instr → Format
  | .nop | .brInit | .brTell | .qsSet | .outEmit | .remapSet | .errClr | .cfg => .z
  | .brRead _ | .brPeek _ => .n6
  | .brSkip _ => .n20
  | .brVlc _ | .vlcAdd _ | .vlcEnd _ => .t
  | .vlcBegin _ _ => .tl
  | .grpSet _ | .mxIdent _ | .mxMs45 _ | .mxRot _ | .mxApply _ => .g
  | .mxWrite _ _ _ => .gij
  | .mxAng _ _ _ => .gka
  | .mxSigns _ _ => .gs
  | .chQset _ | .coefClr _ | .dequant _ | .imdct _ | .window _ | .pcmZero _ | .prevSet _ => .c
  | .sfSet _ _ => .cb
  | .subSet _ | .sfbSet _ => .b

/-- The command of the same row as `i` with the fields of the word `w` (R81). -/
def readFields (i : Instr) (w : Word) : Instr :=
  let g := w.extractLsb' 0 3
  let t := w.extractLsb' 0 4
  let n6 := (w.extractLsb' 0 6).toNat
  match i with
  | .brRead _ => .brRead n6
  | .brPeek _ => .brPeek n6
  | .brSkip _ => .brSkip (w.extractLsb' 0 20).toNat
  | .brVlc _ => .brVlc t
  | .vlcBegin _ _ => .vlcBegin t (w.extractLsb' 8 6).toNat
  | .vlcAdd _ => .vlcAdd t
  | .vlcEnd _ => .vlcEnd t
  | .grpSet _ => .grpSet g
  | .mxIdent _ => .mxIdent g
  | .mxMs45 _ => .mxMs45 g
  | .mxWrite _ _ _ => .mxWrite g (w.extractLsb' 4 3) (w.extractLsb' 8 3)
  | .mxAng _ _ _ => .mxAng g (w.extractLsb' 4 5) (w.extractLsb' 16 6)
  | .mxSigns _ _ => .mxSigns g (w.extractLsb' 8 8)
  | .mxRot _ => .mxRot g
  | .mxApply _ => .mxApply g
  | .subSet _ => .subSet n6
  | .sfbSet _ => .sfbSet n6
  | .chQset _ => .chQset g
  | .sfSet _ _ => .sfSet g (w.extractLsb' 8 5)
  | .coefClr _ => .coefClr g
  | .dequant _ => .dequant g
  | .imdct _ => .imdct g
  | .window _ => .window g
  | .pcmZero _ => .pcmZero g
  | .prevSet _ => .prevSet g
  | .nop | .brInit | .brTell | .qsSet | .outEmit | .remapSet | .errClr | .cfg => i

/-- The table answers a command's opcode with its format and the command of its row with the word's fields. -/
theorem commandOf_opcode (i : Instr) (w : Word) : commandOf (opcode i) w = some (formatOf i, readFields i w) := by
  cases i <;> rfl

/-- What the table answers at an opcode is a command of that opcode, with its format. -/
theorem opcode_formatOf_of_commandOf {opc : Nat} {w : Word} {f : Format} {i : Instr}
    (h : commandOf opc w = some (f, i)) : opcode i = opc ∧ formatOf i = f := by
  unfold commandOf at h
  split at h <;> cases h <;> exact ⟨rfl, rfl⟩

/-! The row of a command (R84). -/

/-- The mask of a row: the opcode's bits and the reserved bits of its format (R84). -/
theorem row_mask (i : Instr) : (Laws.TableWord.row i).1 = 0xFF000000#32 ||| reservedMask (formatOf i) := by
  cases i <;> simp only [Laws.TableWord.row, formatOf, reservedMask] <;> decide

/-- The match of a row: the opcode at its bits (R84). -/
theorem row_match (i : Instr) : (Laws.TableWord.row i).2 = BitVec.ofNat 32 (opcode i) <<< 24 := by
  cases i <;> simp only [Laws.TableWord.row, opcode] <;> decide

theorem opcode_lt (i : Instr) : opcode i < 256 := by
  cases i <;> simp only [opcode] <;> decide

theorem opcodeOf_eq_div (w : Word) : opcodeOf w = w.toNat / 2 ^ 24 := by
  simp only [opcodeOf, BitVec.extractLsb'_toNat, Nat.shiftRight_eq_div_pow]
  omega

/-- One command of each row of the opcode table, in the table's order. -/
def rowCommands : List Instr :=
  [.nop, .brInit, .brRead 0, .brPeek 0, .brSkip 0, .brTell, .brVlc 0, .vlcBegin 0 0, .vlcAdd 0, .vlcEnd 0, .grpSet 0,
   .mxIdent 0, .mxMs45 0, .mxWrite 0 0 0, .mxAng 0 0 0, .mxSigns 0 0, .mxRot 0, .mxApply 0, .subSet 0, .sfbSet 0,
   .qsSet, .chQset 0, .sfSet 0 0, .coefClr 0, .dequant 0, .imdct 0, .window 0, .pcmZero 0, .prevSet 0, .outEmit,
   .remapSet, .errClr, .cfg]

theorem tableRows_eq_map : Spec.tableRows = rowCommands.map Laws.TableWord.row := rfl

theorem mem_tableRows_iff (r : Word × Word) : r ∈ Spec.tableRows ↔ ∃ i, Laws.TableWord.row i = r := by
  rw [tableRows_eq_map]
  constructor
  · intro h
    obtain ⟨i, -, hi⟩ := List.mem_map.1 h
    exact ⟨i, hi⟩
  · rintro ⟨i, rfl⟩
    cases i <;>
      simp only [rowCommands, List.map_cons, Laws.TableWord.row, List.mem_cons, true_or, or_true]

/-- The opcodes R86 lists are exactly those of no command. -/
theorem undefinedOpcode_iff (w : Word) : Spec.UndefinedOpcode w ↔ ∀ i, opcode i ≠ opcodeOf w := by
  unfold Spec.UndefinedOpcode
  rw [← opcodeOf_eq_div]
  constructor
  · intro h i
    cases i <;> simp only [opcode] <;> omega
  · intro h
    have hrows : opcodeOf w ∉ rowCommands.map opcode := by
      intro hmem
      obtain ⟨i, -, hi⟩ := List.mem_map.1 hmem
      exact h i hi
    simp only [rowCommands, List.map_cons, List.map_nil, opcode, List.mem_cons, List.not_mem_nil, or_false,
      not_or] at hrows
    omega

/-! A field at its bits of a word (R81). -/

/-- A field put back at its bits is the word at these bits. -/
theorem place_extract (w : Word) {k n : Nat} (h : k + n ≤ 32) :
    (w.extractLsb' k n).setWidth 32 <<< k = w &&& (BitVec.allOnes n).setWidth 32 <<< k := by
  ext i hi
  simp only [BitVec.getElem_shiftLeft, BitVec.getElem_setWidth, BitVec.getLsbD_extractLsb', BitVec.getElem_and,
    BitVec.getLsbD_allOnes]
  grind

theorem extract_place {n : Nat} (x : BitVec n) {k : Nat} (h : k + n ≤ 32) :
    (x.setWidth 32 <<< k).extractLsb' k n = x := by
  ext i hi
  simp only [BitVec.getElem_extractLsb', BitVec.getLsbD_shiftLeft, BitVec.getLsbD_setWidth]
  grind

/-- A field's bits do not reach another field. -/
theorem extract_place_disjoint {m n : Nat} (x : BitVec n) {j k : Nat} (h : j + m ≤ k ∨ k + n ≤ j) :
    (x.setWidth 32 <<< k).extractLsb' j m = 0#m := by
  ext i hi
  simp only [BitVec.getElem_extractLsb', BitVec.getLsbD_shiftLeft, BitVec.getLsbD_setWidth, BitVec.getElem_zero]
  grind

theorem place_extract_zero (w : Word) {n : Nat} (h : n ≤ 32) :
    (w.extractLsb' 0 n).setWidth 32 = w &&& (BitVec.allOnes n).setWidth 32 := by
  simpa using place_extract w (k := 0) (n := n) (by omega)

theorem extract_place_zero {n : Nat} (x : BitVec n) (h : n ≤ 32) : (x.setWidth 32).extractLsb' 0 n = x := by
  simpa using extract_place x (k := 0) (by omega)

theorem extract_place_zero_disjoint {m n : Nat} (x : BitVec n) {j : Nat} (h : n ≤ j) :
    (x.setWidth 32).extractLsb' j m = 0#m := by
  simpa using extract_place_disjoint x (k := 0) (.inr (by omega))

/-! A word matches a row. -/

/-- The opcode's bits of a word, in place. -/
theorem and_opcodeMask (w : Word) : w &&& 0xFF000000#32 = BitVec.ofNat 32 (opcodeOf w) <<< 24 := by
  have h := place_extract w (k := 24) (n := 8) (by decide)
  rw [opcodeOf, BitVec.ofNat_toNat, h]
  rfl

theorem opcodeOf_place {o : Nat} (h : o < 256) : opcodeOf (BitVec.ofNat 32 o <<< 24) = o := by
  rw [opcodeOf_eq_div, BitVec.toNat_shiftLeft, BitVec.toNat_ofNat, Nat.shiftLeft_eq]
  omega

theorem opcodeOf_and_opcodeMask (w : Word) : opcodeOf (w &&& 0xFF000000#32) = opcodeOf w := by
  rw [and_opcodeMask]
  exact opcodeOf_place (w.extractLsb' 24 8).isLt

/-- "(word & mask) == match" (R84) is the two checks of R85: the row's opcode, and no reserved bit. -/
theorem matches_row_iff (w : Word) (i : Instr) : w &&& (Laws.TableWord.row i).1 = (Laws.TableWord.row i).2 ↔
    opcodeOf w = opcode i ∧ w &&& reservedMask (formatOf i) = 0#32 := by
  have hopc (f : Format) : (0xFF000000#32 ||| reservedMask f) &&& 0xFF000000#32 = 0xFF000000#32 := by
    cases f <;> rfl
  have hres (f : Format) : (0xFF000000#32 ||| reservedMask f) &&& reservedMask f = reservedMask f := by
    cases f <;> rfl
  have hno (f : Format) : 0xFF000000#32 &&& reservedMask f = 0#32 := by
    cases f <;> rfl
  rw [row_mask, row_match]
  constructor
  · intro h
    have hhigh : w &&& 0xFF000000#32 = BitVec.ofNat 32 (opcode i) <<< 24 &&& 0xFF000000#32 := by
      rw [← h, BitVec.and_assoc, hopc]
    have ho : opcodeOf w = opcode i := by
      rw [← opcodeOf_and_opcodeMask, hhigh, opcodeOf_and_opcodeMask, opcodeOf_place (opcode_lt i)]
    refine ⟨ho, ?_⟩
    calc w &&& reservedMask (formatOf i)
        = w &&& (0xFF000000#32 ||| reservedMask (formatOf i)) &&& reservedMask (formatOf i) := by
          rw [BitVec.and_assoc, hres]
      _ = w &&& 0xFF000000#32 &&& reservedMask (formatOf i) := by rw [h, ← ho, ← and_opcodeMask]
      _ = 0#32 := by rw [BitVec.and_assoc, hno, BitVec.and_zero]
  · rintro ⟨ho, hm⟩
    rw [BitVec.and_or_distrib_left, hm, BitVec.or_zero, and_opcodeMask, ho]

/-! Decoding (R85). -/

theorem commandOf_eq_none_iff (opc : Nat) (w : Word) : commandOf opc w = none ↔ ∀ i, opcode i ≠ opc := by
  constructor
  · rintro h i rfl
    rw [commandOf_opcode] at h
    cases h
  · intro h
    cases hc : commandOf opc w with
    | none => rfl
    | some p => exact absurd (opcode_formatOf_of_commandOf hc).1 (h p.2)

theorem decode_eq_undefinedOpcode_iff (w : Word) : decode w = .error .undefinedOpcode ↔ Spec.UndefinedOpcode w := by
  rw [undefinedOpcode_iff, ← commandOf_eq_none_iff (opcodeOf w) w, decode]
  cases commandOf (opcodeOf w) w with
  | none => simp
  | some p => simp only [reduceCtorEq, iff_false]; split <;> simp

/-- A word decodes to `i` exactly when it is a word of `i`'s row and its fields are those of `i`. -/
theorem decode_eq_ok_iff {w : Word} {i : Instr} : decode w = .ok i ↔
    w &&& (Laws.TableWord.row i).1 = (Laws.TableWord.row i).2 ∧ readFields i w = i := by
  rw [matches_row_iff]
  constructor
  · intro h
    unfold decode at h
    split at h
    · cases h
    · rename_i f j hc
      split at h
      · rename_i hm
        cases h
        obtain ⟨ho, rfl⟩ := opcode_formatOf_of_commandOf hc
        rw [← ho, commandOf_opcode] at hc
        exact ⟨⟨ho.symm, hm⟩, by simpa using hc⟩
      · cases h
  · rintro ⟨⟨ho, hm⟩, hf⟩
    simp only [decode, ho, commandOf_opcode, hf, hm, if_true]

/-! Encoding and decoding are inverse (R80, R81). -/

/-- The fields read from a word have exactly the bits of the word that the row does not fix. -/
theorem fieldBits_readFields (i : Instr) (w : Word) :
    fieldBits (readFields i w) = w &&& ~~~(Laws.TableWord.row i).1 := by
  cases i <;>
    simp (disch := decide) only [readFields, fieldBits, Laws.TableWord.row, BitVec.ofNat_toNat, BitVec.setWidth_eq,
      place_extract, place_extract_zero, ← BitVec.and_or_distrib_left]
  case nop | brInit | brTell | qsSet | outEmit | remapSet | errClr | cfg => exact BitVec.and_zero.symm
  all_goals rfl

theorem wellFormed_readFields (i : Instr) (w : Word) : WellFormed (readFields i w) = true := by
  cases i <;> simp only [readFields, WellFormed, decide_eq_true_eq, BitVec.isLt]

/-- A word of the row of `i` is the word of the command its fields give. -/
theorem encode_readFields {w : Word} {i : Instr}
    (h : w &&& (Laws.TableWord.row i).1 = (Laws.TableWord.row i).2) : encode (readFields i w) = w := by
  have hopc : opcode (readFields i w) = opcode i := by cases i <;> rfl
  rw [encode, hopc, ← row_match, ← h, fieldBits_readFields, ← BitVec.and_or_distrib_left, BitVec.or_not_self,
    BitVec.and_allOnes]

/-- Below the opcode the word of a command has its field bits alone. -/
theorem extractLsb'_encode (i : Instr) {k n : Nat} (h : k + n ≤ 24) :
    (encode i).extractLsb' k n = (fieldBits i).extractLsb' k n := by
  ext j hj
  have hlow : k + j < 24 := by omega
  simp [encode, hlow]

theorem readFields_encode {i : Instr} (h : WellFormed i = true) : readFields i (encode i) = i := by
  cases i <;>
    simp (disch := decide) only [readFields, extractLsb'_encode, fieldBits, BitVec.extractLsb'_or, extract_place,
      extract_place_disjoint, extract_place_zero, extract_place_zero_disjoint, BitVec.or_zero, BitVec.zero_or]
  case brRead | brPeek | brSkip | vlcBegin | subSet | sfbSet =>
    rw [BitVec.toNat_ofNat, Nat.mod_eq_of_lt (of_decide_eq_true h)]

open Laws.TableWord in
/-- The word of every command is a word of its row: the lemmas of Laws.TableWord for each command together. -/
theorem encode_matches_row (i : Instr) : Statement i :=
  match i with
  | .nop => nop | .brInit => brInit | .brRead n => brRead n | .brPeek n => brPeek n | .brSkip n => brSkip n
  | .brTell => brTell | .brVlc t => brVlc t | .vlcBegin t m => vlcBegin t m | .vlcAdd t => vlcAdd t
  | .vlcEnd t => vlcEnd t | .grpSet g => grpSet g | .mxIdent g => mxIdent g | .mxMs45 g => mxMs45 g
  | .mxWrite g a b => mxWrite g a b | .mxAng g k a => mxAng g k a | .mxSigns g sg => mxSigns g sg
  | .mxRot g => mxRot g | .mxApply g => mxApply g | .subSet nb => subSet nb | .sfbSet b => sfbSet b
  | .qsSet => qsSet | .chQset c => chQset c | .sfSet c b => sfSet c b | .coefClr c => coefClr c
  | .dequant c => dequant c | .imdct c => imdct c | .window c => window c | .pcmZero c => pcmZero c
  | .prevSet c => prevSet c | .outEmit => outEmit | .remapSet => remapSet | .errClr => errClr | .cfg => cfg

/-- Settles O1: the word matches the command's row, and reading its fields gives the command's back. -/
theorem decodeOfEncode : Obligations.DecodeOfEncode := by
  unfold Obligations.DecodeOfEncode
  intro i h
  exact decode_eq_ok_iff.2 ⟨encode_matches_row i h, readFields_encode h⟩

/-- Settles O2: the word's bits are those its row fixes and those its fields hold. -/
theorem encodeOfDecode : Obligations.EncodeOfDecode := by
  unfold Obligations.EncodeOfDecode
  intro w i h
  obtain ⟨hrow, hfields⟩ := decode_eq_ok_iff.1 h
  rw [← hfields]
  exact ⟨wellFormed_readFields i w, encode_readFields hrow⟩

/-- A word decodes exactly when it is a word of some row: the row's command with the word's fields. -/
theorem exists_decode_ok_iff (w : Word) :
    (∃ i, decode w = .ok i) ↔ ∃ r ∈ Spec.tableRows, w &&& r.1 = r.2 := by
  constructor
  · rintro ⟨i, h⟩
    exact ⟨_, (mem_tableRows_iff _).2 ⟨i, rfl⟩, (decode_eq_ok_iff.1 h).1⟩
  · rintro ⟨r, hr, h⟩
    obtain ⟨i, rfl⟩ := (mem_tableRows_iff r).1 hr
    have hword := encode_readFields h
    exact ⟨_, hword ▸ decodeOfEncode _ (wellFormed_readFields i w)⟩

theorem decode_eq_reservedBits_iff (w : Word) : decode w = .error .reservedBits ↔
    ¬Spec.UndefinedOpcode w ∧ ∀ r ∈ Spec.tableRows, w &&& r.1 ≠ r.2 := by
  have hrows : (∀ r ∈ Spec.tableRows, w &&& r.1 ≠ r.2) ↔ ¬∃ i, decode w = .ok i := by
    rw [exists_decode_ok_iff]
    simp only [not_exists, not_and, ne_eq]
  rw [← decode_eq_undefinedOpcode_iff, hrows]
  cases decode w with
  | ok i => simp
  | error e => cases e <;> simp

/-- Settles O3, one lemma per outcome of the decoder. -/
theorem wordIsCommandIffTableRow : Obligations.WordIsCommandIffTableRow := by
  unfold Obligations.WordIsCommandIffTableRow
  exact fun w => ⟨exists_decode_ok_iff w, decode_eq_undefinedOpcode_iff w, decode_eq_reservedBits_iff w⟩

/-- Settles O4: the decoder evaluates on each word. -/
theorem sampleWordsDecode : Obligations.SampleWordsDecode :=
  ⟨rfl, rfl, rfl, rfl, rfl, rfl, rfl, rfl, rfl, rfl, rfl, rfl, rfl, rfl, rfl, rfl⟩

end Sys2Proof
end

section
/-! SUPPORT. The checks before a command's own rule (R85): a word that is no command, and a command before CFG. -/

namespace Sys2Proof.Machine

/-- The step at a CMD write of a host that then waits runs the word on the issued state (R14, R25). -/
theorem step_runWord {s : State} {early : Bool} {addr w : Word} {rest : List HostOp} (hs : Spec.Sound s)
    (hhost : s.host = ⟨early, .write addr w⟩ :: rest) (ha : busOffset addr = 0x00C) (hw : Spec.Waits rest) :
    step s = runWord w (Spec.issued s w rest) := by
  rw [step_of_host hs hhost]
  refine (hostEvent_cmd ha rest s).trans ?_
  rw [issueCommand, overlap_of_waits hw]
  rfl

theorem runWord_undefinedOpcode {s : State} {w : Word} (h : s.err = 0) (hd : decode w = .error .undefinedOpcode) :
    runWord w s = .next (Spec.raised s 4 1) := by
  rw [runWord, hd]
  exact run_error h _

theorem runWord_reservedBits {s : State} {w : Word} (h : s.err = 0) (hd : decode w = .error .reservedBits) :
    runWord w s = .next (Spec.raised s 4 2) := by
  rw [runWord, hd]
  exact run_error h _

/-- Settles O6: the step runs the word, and O3 says which of the two errors it is. -/
theorem illegalWordRaises : Obligations.IllegalWordRaises := by
  unfold Obligations.IllegalWordRaises
  intro s early addr w rest hs herr hhost ha hw
  rw [step_runWord hs hhost ha hw]
  exact ⟨fun hu => runWord_undefinedOpcode herr ((decode_eq_undefinedOpcode_iff w).2 hu),
    fun hu hrows => runWord_reservedBits herr ((decode_eq_reservedBits_iff w).2 ⟨hu, hrows⟩)⟩

/-- Every command of the table's "Needs CFG" column runs behind the configuration check. -/
theorem exec_eq_runConfigured {i : Instr} (h : Spec.needsCfg i = true) (s : State) :
    ∃ r, exec i s = runConfigured s r := by
  cases i with
  | nop | brInit | brRead _ | brPeek _ | brSkip _ | brTell | brVlc _ | vlcBegin _ _ | vlcAdd _ | vlcEnd _
  | remapSet | errClr | cfg => cases h
  | _ => exact ⟨_, rfl⟩

/-- Settles O17: the configuration check comes before every check of the command's own. -/
theorem notReadyBeforeCfg : Obligations.NotReadyBeforeCfg := by
  unfold Obligations.NotReadyBeforeCfg
  intro s i herr hcfg hneeds
  obtain ⟨r, hr⟩ := exec_eq_runConfigured hneeds s
  rw [hr, runConfigured_unconfigured hcfg]
  exact run_error herr _

end Sys2Proof.Machine
end

section
/-! SUPPORT. A command's word is the sum of its row's match and its fields (R81, R84), so the words of the bit reader's
and the VLC commands decode to them. -/

namespace Sys2Proof

/-- The field bits of a command stand apart from its opcode. -/
theorem encode_eq_add {i : Instr} (h : WellFormed i = true) :
    encode i = (Laws.TableWord.row i).2 + fieldBits i := by
  have hfields : fieldBits i = encode i &&& ~~~(Laws.TableWord.row i).1 := by
    rw [← fieldBits_readFields, readFields_encode h]
  have hmatch : (Laws.TableWord.row i).2 &&& ~~~(Laws.TableWord.row i).1 = 0#32 := by
    cases i <;> simp only [Laws.TableWord.row] <;> decide
  have hdisjoint : (Laws.TableWord.row i).2 &&& fieldBits i = 0#32 := by
    rw [hfields, BitVec.and_comm (encode i), ← BitVec.and_assoc, hmatch, BitVec.zero_and]
  rw [encode, ← row_match, BitVec.add_eq_or_of_and_eq_zero _ _ hdisjoint]

theorem decode_match_add {i : Instr} (h : WellFormed i = true) :
    decode ((Laws.TableWord.row i).2 + fieldBits i) = .ok i := by
  rw [← encode_eq_add h]
  exact decodeOfEncode i h

/-- A count that fits its field is the field's value in the word (R81). -/
theorem setWidth_ofNat_of_lt {k n : Nat} (h : n < 2 ^ k) :
    (BitVec.ofNat k n).setWidth 32 = BitVec.ofNat 32 n := by
  rw [← BitVec.ofNat_toNat, BitVec.toNat_ofNat, Nat.mod_eq_of_lt h]

theorem decode_brRead {n : Nat} (h : n < 64) : decode (0x02000000#32 + BitVec.ofNat 32 n) = .ok (.brRead n) := by
  rw [← setWidth_ofNat_of_lt (k := 6) h]
  exact decode_match_add (i := .brRead n) (decide_eq_true h)

theorem decode_brPeek {n : Nat} (h : n < 64) : decode (0x03000000#32 + BitVec.ofNat 32 n) = .ok (.brPeek n) := by
  rw [← setWidth_ofNat_of_lt (k := 6) h]
  exact decode_match_add (i := .brPeek n) (decide_eq_true h)

theorem decode_brSkip {n : Nat} (h : n < 2 ^ 20) :
    decode (0x04000000#32 + BitVec.ofNat 32 n) = .ok (.brSkip n) := by
  rw [← setWidth_ofNat_of_lt h]
  exact decode_match_add (i := .brSkip n) (decide_eq_true h)

/-- T and MAXLEN stand at their own bits of the word (R81, format TL). -/
theorem decode_vlcBegin (t : BitVec 4) (l : BitVec 6) :
    decode (0x08000000#32 + t.setWidth 32 + l.setWidth 32 <<< 8) = .ok (.vlcBegin t l.toNat) := by
  have hdisjoint : t.setWidth 32 &&& l.setWidth 32 <<< 8 = 0#32 := by
    ext j hj
    simp only [BitVec.getElem_and, BitVec.getElem_setWidth, BitVec.getElem_shiftLeft, BitVec.getElem_zero]
    grind
  have hfields : fieldBits (.vlcBegin t l.toNat) = t.setWidth 32 + l.setWidth 32 <<< 8 := by
    rw [fieldBits, BitVec.ofNat_toNat, BitVec.setWidth_eq, BitVec.add_eq_or_of_and_eq_zero _ _ hdisjoint]
  rw [BitVec.add_assoc, ← hfields]
  exact decode_match_add (i := .vlcBegin t l.toNat) (decide_eq_true l.isLt)

end Sys2Proof
end

section
/-! SUPPORT. The bit reader as whole next states (R100-R105, R110). -/

namespace Sys2Proof.Machine

/-! A command that passes the lock. -/

theorem run_ok_finished {s : State} (h : s.err = 0) (t : State) : run s (.ok t) = .next (Spec.finished t) :=
  run_ok h t

theorem run_error_raised {s : State} (h : s.err = 0) (e : CmdError) :
    run s (.error e) = .next (Spec.raised s (errorCode e) (errorInfo e)) :=
  run_error h e

/-- A check that fails ends the command. -/
theorem run_check_raised {s : State} (h : s.err = 0) {c : Prop} [Decidable c] (hc : c) (e : CmdError)
    (r : Except CmdError State) :
    run s (if c then .error e else r) = .next (Spec.raised s (errorCode e) (errorInfo e)) := by
  rw [if_pos hc, run_error_raised h]

/-! BR_INIT and BR_TELL (R101, R105). -/

/-- Settles O22: S and L fit the 20 bits of the window's registers once the check has passed. -/
theorem brInitSetsWindow : Obligations.BrInitSetsWindow := by
  unfold Obligations.BrInitSetsWindow
  refine ⟨rfl, fun s herr => ⟨fun hin => ?_, fun hout => ?_⟩⟩
  · refine ⟨Spec.finished { s with brStart := s.arg0.setWidth 20, brLen := s.arg1.setWidth 20, brPos := 0 }, ?_, rfl,
      ?_, ?_⟩
    · rw [exec, execBrInit, if_neg (by simp only [Bool.or_eq_true, decide_eq_true_eq, Config.bbufBits]; omega)]
      exact run_ok_finished herr _
    · exact (BitVec.toNat_setWidth _ _).trans (Nat.mod_eq_of_lt (by omega))
    · exact (BitVec.toNat_setWidth _ _).trans (Nat.mod_eq_of_lt (by omega))
  · exact run_check_raised herr (by simp only [Bool.or_eq_true, decide_eq_true_eq, Config.bbufBits]; omega) _ _

theorem exec_brTell {s : State} (herr : s.err = 0) :
    exec .brTell s = .next (Spec.finished { s with res0 := s.brPos.setWidth 32 }) :=
  run_ok_finished herr _

/-- Settles O25: the 20 bits of the cursor fit RES0. -/
theorem tellReturnsTheCursor : Obligations.TellReturnsTheCursor := by
  unfold Obligations.TellReturnsTheCursor
  exact ⟨rfl, fun s herr => ⟨_, exec_brTell herr, rfl, BitVec.toNat_setWidth_of_le (by decide)⟩⟩

/-! The cursor's advance and the next bits (R100). -/

/-- The cursor of `s` moved past the next `n` bits. -/
def State.skip (s : State) (n : Nat) : State := { s with brPos := s.brPos + BitVec.ofNat 20 n }

/-- RES0 loaded with the next `n` bits. -/
def State.fetch (s : State) (n : Nat) : State := { s with res0 := BitVec.ofNat 32 (s.windowBits s.brPos.toNat n) }

/-- A cursor that stays inside the window does not wrap. -/
theorem State.toNat_skip_brPos {s : State} {n : Nat} (h : s.brPos.toNat + n ≤ s.brLen.toNat) :
    (s.skip n).brPos.toNat = s.brPos.toNat + n := by
  have hlen := s.brLen.isLt
  simp only [State.skip, BitVec.toNat_add, BitVec.toNat_ofNat]
  omega

theorem State.toNat_fetch_res0 (s : State) {n : Nat} (h : n ≤ 32) :
    (s.fetch n).res0.toNat = s.windowBits s.brPos.toNat n :=
  (BitVec.toNat_ofNat _ _).trans <| Nat.mod_eq_of_lt <|
    (s.windowBits_lt _ n).trans_le (Nat.pow_le_pow_right (by decide) h)

/-- `bits(BR_POS, n)` of R100 is one number. -/
theorem isBits_iff (s : State) (n : Nat) (r : Word) :
    Spec.IsBits s n r ↔ r.toNat = s.windowBits s.brPos.toNat n := by
  constructor
  · rintro ⟨hlt, hbits⟩
    refine Nat.eq_of_testBit_eq fun j => ?_
    by_cases hj : j < n
    · have hk := hbits (n - 1 - j) (by omega)
      rw [← State.windowBit_eq_bit, ← s.windowBits_testBit _ n _ (by omega)] at hk
      rwa [show n - 1 - (n - 1 - j) = j by omega] at hk
    · have hpow : 2 ^ n ≤ 2 ^ j := Nat.pow_le_pow_right (by decide) (by omega)
      rw [Nat.testBit_lt_two_pow (hlt.trans_le hpow),
        Nat.testBit_lt_two_pow ((s.windowBits_lt _ n).trans_le hpow)]
  · intro h
    refine ⟨h ▸ s.windowBits_lt _ n, fun k hk => ?_⟩
    rw [← BitVec.testBit_toNat, h, s.windowBits_testBit _ n k hk, State.windowBit_eq_bit]

/-- The bits of the window depend on BBUF and the window's start alone. -/
theorem State.windowBits_eq {s u : State} (hmem : u.mem = s.mem) (hstart : u.brStart = s.brStart) (p n : Nat) :
    u.windowBits p n = s.windowBits p n :=
  State.windowBits_congr fun _ _ => by rw [State.windowBit, State.windowBit, hmem, hstart]

/-! BR_READ, BR_PEEK and BR_SKIP (R102-R104). -/

/-- The checks of BR_READ and BR_PEEK, in their order (R102, R103). -/
theorem read_checks {s : State} (herr : s.err = 0) (n : Nat) (t : State) :
    let out := run s (if n > Config.maxRead then .error .operandRange
      else if s.brPos.toNat + n > s.brLen.toNat then .error (.outOfData s.brPos) else .ok t)
    (n ≤ 32 → s.brPos.toNat + n ≤ s.brLen.toNat → out = .next (Spec.finished t)) ∧
    (n ≤ 32 → s.brLen.toNat < s.brPos.toNat + n → out = .next (Spec.raised s 1 (s.brPos.setWidth 32))) ∧
    (32 < n → out = .next (Spec.raised s 4 3)) := by
  refine ⟨fun hn hin => ?_, fun hn hout => ?_, fun hn => run_check_raised herr hn _ _⟩
  · rw [if_neg (Nat.not_lt.2 hn), if_neg (Nat.not_lt.2 hin), run_ok_finished herr]
  · rw [if_neg (Nat.not_lt.2 hn)]
    exact run_check_raised herr hout _ _

theorem exec_brRead {s : State} (herr : s.err = 0) {n : Nat} (hn : n ≤ 32)
    (hin : s.brPos.toNat + n ≤ s.brLen.toNat) :
    exec (.brRead n) s = .next (Spec.finished ((s.fetch n).skip n)) :=
  (read_checks herr n _).1 hn hin

theorem exec_brPeek {s : State} (herr : s.err = 0) {n : Nat} (hn : n ≤ 32)
    (hin : s.brPos.toNat + n ≤ s.brLen.toNat) : exec (.brPeek n) s = .next (Spec.finished (s.fetch n)) :=
  (read_checks herr n _).1 hn hin

theorem exec_brSkip {s : State} (herr : s.err = 0) {n : Nat} (hin : s.brPos.toNat + n ≤ s.brLen.toNat) :
    exec (.brSkip n) s = .next (Spec.finished (s.skip n)) := by
  rw [exec, execBrSkip, if_neg (Nat.not_lt.2 hin), run_ok_finished herr]
  rfl

/-- Settles O23: by `read_checks`, and `isBits_iff` for the value read. -/
theorem readAndPeekReturnTheNextBits : Obligations.ReadAndPeekReturnTheNextBits := by
  unfold Obligations.ReadAndPeekReturnTheNextBits
  refine ⟨fun n hn => ⟨decode_brRead hn, decode_brPeek hn⟩, fun s n herr => ?_⟩
  have hbits (hn : n ≤ 32) : Spec.IsBits s n (s.fetch n).res0 := (isBits_iff s n _).2 (s.toNat_fetch_res0 hn)
  obtain ⟨hread, hreadShort, hreadRange⟩ := read_checks herr n ((s.fetch n).skip n)
  obtain ⟨hpeek, hpeekShort, hpeekRange⟩ := read_checks herr n (s.fetch n)
  refine ⟨fun hn hin => ⟨?read, ?peek⟩, fun hn hout => ⟨hreadShort hn hout, hpeekShort hn hout⟩,
    fun hn => ⟨hreadRange hn, hpeekRange hn⟩⟩
  case read => exact ⟨_, hread hn hin, rfl, s.toNat_skip_brPos hin, hbits hn⟩
  case peek => exact ⟨_, hpeek hn hin, rfl, hbits hn⟩

theorem State.skip_zero (s : State) : s.skip 0 = s := by
  simp [State.skip]

/-- Settles O24: the cursor moves inside the window, and R29 keeps it there for n = 0. -/
theorem skipMovesTheCursor : Obligations.SkipMovesTheCursor := by
  unfold Obligations.SkipMovesTheCursor
  refine ⟨fun n hn => decode_brSkip hn, fun s n herr => ⟨fun hin => ?_, fun hout => ?_, fun hinv => ?_⟩⟩
  · exact ⟨_, exec_brSkip herr hin, rfl, s.toNat_skip_brPos hin⟩
  · exact run_check_raised herr hout _ _
  · rw [exec_brSkip herr (n := 0) hinv.2, State.skip_zero]

/-! The laws of reading (R110). -/

/-- Two reads in a row, the second from the state `u`: the first value stands above the second. -/
theorem State.fetch_add {s u : State} {a b : Nat} (hab : a + b ≤ 32) (hin : s.brPos.toNat + a ≤ s.brLen.toNat)
    (hmem : u.mem = s.mem) (hstart : u.brStart = s.brStart) (hpos : u.brPos = (s.skip a).brPos) :
    (s.fetch (a + b)).res0 = (s.fetch a).res0 <<< b ||| (u.fetch b).res0 := by
  have hlt := s.windowBits_lt (s.brPos.toNat + a) b
  have hwhole := s.toNat_fetch_res0 hab
  have hsmall : (s.fetch a).res0.toNat * 2 ^ b < 2 ^ 32 := by
    have h := (s.fetch (a + b)).res0.isLt
    rw [hwhole, s.windowBits_add] at h
    rw [s.toNat_fetch_res0 (by omega)]
    omega
  refine BitVec.eq_of_toNat_eq ?_
  rw [BitVec.toNat_or, BitVec.toNat_shiftLeft, Nat.shiftLeft_eq, Nat.mod_eq_of_lt hsmall, hwhole,
    s.toNat_fetch_res0 (by omega), u.toNat_fetch_res0 (by omega), hpos, State.toNat_skip_brPos hin,
    State.windowBits_eq hmem hstart, s.windowBits_add, ← Nat.shiftLeft_eq, Nat.shiftLeft_add_eq_or_of_lt hlt]

theorem State.skip_add (s : State) (a b : Nat) : (s.skip a).skip b = s.skip (a + b) := by
  simp only [State.skip, BitVec.add_assoc, ← BitVec.ofNat_add]

/-- Settles O26: L1 is `State.fetch_add`; PEEK and SKIP are the two halves of READ. -/
theorem readLaws : Obligations.ReadLaws := by
  unfold Obligations.ReadLaws
  refine ⟨fun s a b herr hab hin => ?_, fun s n herr hn hin => ?_⟩
  · have hpos : (s.skip a).brPos.toNat + b ≤ s.brLen.toNat := by
      rw [State.toNat_skip_brPos (by omega)]
      exact hin
    have hfirst := exec_brRead herr (n := a) (by omega) (by omega)
    have hsecond := exec_brRead (s := Spec.finished ((s.fetch a).skip a)) herr (n := b) (by omega) hpos
    have hwhole := exec_brRead herr hab (by omega)
    have hcursor : (s.skip (a + b)).brPos = ((s.skip a).skip b).brPos := by rw [State.skip_add]
    exact ⟨_, _, _, hfirst, hsecond, hwhole, hcursor,
      State.fetch_add hab (by omega) rfl rfl rfl⟩
  · have hskip := exec_brSkip (s := Spec.finished (s.fetch n)) herr hin
    have htell := exec_brTell (s := Spec.finished ((s.fetch n).skip n)) herr
    exact ⟨_, _, _, exec_brPeek herr hn hin, hskip, exec_brRead herr hn hin, htell,
      (BitVec.toNat_setWidth_of_le (by decide)).trans (s.toNat_skip_brPos hin)⟩

end Sys2Proof.Machine
end

section
/-! SUPPORT. Building a VLC table: VLC_BEGIN, VLC_ADD and VLC_END as whole next states (R107-R109). -/

namespace Sys2Proof.Machine

/-! What the errors of a table name (R221): the reason in bits 8 and 9, the table below it. -/

theorem errorInfo_tableState (t : BitVec 4) :
    errorInfo (.tableState t) = BitVec.ofNat 32 (0x100 + t.toNat) := by
  revert t; decide

theorem errorInfo_tableEntry (t : BitVec 4) :
    errorInfo (.tableEntry t) = BitVec.ofNat 32 (0x200 + t.toNat) := by
  revert t; decide

theorem errorInfo_tableCodes (t : BitVec 4) :
    errorInfo (.tableCodes t) = BitVec.ofNat 32 (0x300 + t.toNat) := by
  revert t; decide

/-! VLC_BEGIN (R107). -/

/-- A table just begun: BUILDING, with no entry. -/
def VlcStatus.begun (maxlen : Nat) : VlcStatus := { state := 1, maxlen := BitVec.ofNat 6 maxlen, count := 0 }

theorem exec_vlcBegin {s : State} (herr : s.err = 0) (t : BitVec 4) {maxlen : Nat} (hmin : 1 ≤ maxlen)
    (hmax : maxlen ≤ 32) :
    exec (.vlcBegin t maxlen) s = .next (Spec.finished (s.setTable t (VlcStatus.begun maxlen))) := by
  rw [exec, execVlcBegin, if_neg (by simp only [Bool.or_eq_true, decide_eq_true_eq, Config.vlcMaxLen]; omega)]
  exact run_ok_finished herr _

/-- Settles O28: one table's registers are replaced, and the entry RAM stays. -/
theorem vlcBeginStartsATable : Obligations.VlcBeginStartsATable := by
  unfold Obligations.VlcBeginStartsATable
  refine ⟨decode_vlcBegin, fun s t maxlen herr => ⟨fun hmin hmax => ?_, fun hout => ?_⟩⟩
  · have htable : (Spec.finished (s.setTable t (VlcStatus.begun maxlen))).table t = VlcStatus.begun maxlen :=
      s.table_setTable_self t _
    refine ⟨_, exec_vlcBegin herr t hmin hmax, rfl, ?_⟩
    rw [htable]
    refine ⟨rfl, ?_, rfl, fun t' ht => (s.table_setTable t t' _).trans (if_neg ht), fun _ _ => rfl⟩
    exact (BitVec.toNat_ofNat _ _).trans (Nat.mod_eq_of_lt (by omega))
  · exact run_check_raised herr (by simp only [Bool.or_eq_true, decide_eq_true_eq, Config.vlcMaxLen]; omega) _ _

/-! VLC_ADD (R108). -/

theorem argLen_toNat (x : Word) : (argLen x).toNat = x.toNat % 64 := by
  simp [argLen]

theorem argSym_toNat (x : Word) : (argSym x).toNat = x.toNat / 65536 := by
  have hx := x.isLt
  simp only [argSym, BitVec.extractLsb'_toNat, Nat.shiftRight_eq_div_pow]
  omega

/-- The entry VLC_ADD appends (R108). -/
def State.argEntry (s : State) : VlcEntry := { code := s.arg0, len := argLen s.arg1, sym := argSym s.arg1 }

/-- Table `t` with one entry more. -/
def State.append (s : State) (t : BitVec 4) (e : VlcEntry) : State :=
  { s.setTable t { s.table t with count := (s.table t).count + 1 } with
    vlcRam := storeWrite VlcEntry.zero s.vlcRam (vlcKey t (s.table t).count.toNat) [e] }

theorem State.table_append_self (s : State) (t : BitVec 4) (e : VlcEntry) :
    (s.append t e).table t = { s.table t with count := (s.table t).count + 1 } :=
  s.table_setTable_self t _

theorem State.table_append_of_ne (s : State) {t t' : BitVec 4} (e : VlcEntry) (h : t' ≠ t) :
    (s.append t e).table t' = s.table t' :=
  (s.table_setTable t t' _).trans (if_neg h)

theorem State.vlcEntry_append {s : State} {t : BitVec 4} (e : VlcEntry) (hroom : (s.table t).count.toNat < 512)
    (t' : BitVec 4) {k : Nat} (hk : k < 512) :
    (s.append t e).vlcEntry t' k = if t' = t ∧ k = (s.table t).count.toNat then e else s.vlcEntry t' k :=
  State.vlcEntry_write hroom rfl t' hk

/-- The checks of VLC_ADD, in their order (R108). -/
theorem vlcAdd_checks {s : State} (herr : s.err = 0) (t : BitVec 4) :
    let len := s.arg1.toNat % 64
    ((s.table t).state ≠ 1 →
      exec (.vlcAdd t) s = .next (Spec.raised s 5 (BitVec.ofNat 32 (0x100 + t.toNat)))) ∧
    ((s.table t).state = 1 →
      len < 1 ∨ (s.table t).maxlen.toNat < len ∨ 2 ^ len ≤ s.arg0.toNat ∨ (s.table t).count.toNat = 512 →
      exec (.vlcAdd t) s = .next (Spec.raised s 5 (BitVec.ofNat 32 (0x200 + t.toNat)))) ∧
    ((s.table t).state = 1 →
      ¬(len < 1 ∨ (s.table t).maxlen.toNat < len ∨ 2 ^ len ≤ s.arg0.toNat ∨ (s.table t).count.toNat = 512) →
      exec (.vlcAdd t) s = .next (Spec.finished (s.append t s.argEntry))) := by
  simp only [← errorInfo_tableState, ← errorInfo_tableEntry, exec, execVlcAdd, Bool.or_eq_true, decide_eq_true_eq,
    gt_iff_lt, ge_iff_le, argLen_toNat, or_assoc, Config.vlcMaxEntries]
  refine ⟨fun hstate => run_check_raised herr hstate _ _, fun hstate hbad => ?_, fun hstate hok => ?_⟩
  · rw [if_neg (not_not.2 hstate)]
    exact run_check_raised herr hbad _ _
  · rw [if_neg (not_not.2 hstate), if_neg hok]
    exact run_ok_finished herr _

/-- Settles O29: the entry at COUNT is written, and no key of another entry is the same (`State.vlcEntry_write`). -/
theorem vlcAddAppendsAnEntry : Obligations.VlcAddAppendsAnEntry := by
  unfold Obligations.VlcAddAppendsAnEntry
  refine ⟨fun t => decode_match_add (i := .vlcAdd t) rfl, fun s t herr => ?_⟩
  obtain ⟨hstateErr, hentryErr, happend⟩ := vlcAdd_checks herr t
  refine ⟨fun hstate hmin hmax hcode hroom => ?_, hstateErr, hentryErr⟩
  have hok : ¬(s.arg1.toNat % 64 < 1 ∨ (s.table t).maxlen.toNat < s.arg1.toNat % 64 ∨
      2 ^ (s.arg1.toNat % 64) ≤ s.arg0.toNat ∨ (s.table t).count.toNat = 512) := by
    simp only [not_or, not_lt, not_le]
    exact ⟨hmin, hmax, hcode, hroom.ne⟩
  have htable : (Spec.finished (s.append t s.argEntry)).table t =
      { s.table t with count := (s.table t).count + 1 } := s.table_append_self t s.argEntry
  have hcount : ((s.table t).count + 1).toNat = (s.table t).count.toNat + 1 := by
    rw [BitVec.toNat_add, show (1 : BitVec 10).toNat = 1 from rfl]
    omega
  have hentry : (Spec.finished (s.append t s.argEntry)).vlcEntry t (s.table t).count.toNat = s.argEntry :=
    (State.vlcEntry_append _ hroom t hroom).trans (if_pos ⟨rfl, rfl⟩)
  refine ⟨_, happend hstate hok, rfl, ?_⟩
  rw [htable, hentry]
  refine ⟨hstate, rfl, hcount, fun t' ht => s.table_append_of_ne s.argEntry ht, rfl, argLen_toNat _, argSym_toNat _,
    fun t' e he hother => (State.vlcEntry_append s.argEntry hroom t' he).trans (if_neg ?_)⟩
  rintro ⟨rfl, rfl⟩
  exact hother.elim (· rfl) (· rfl)

/-! VLC_END (R109). -/

/-- The converse of `prefixFreeTable_of_check`. -/
theorem check_of_prefixFreeTable {s : State} {t : BitVec 4} (h : PrefixFreeTable s t) :
    prefixFree (s.vlcEntries t) = true := by
  have hno (e f : Nat) (he : e < (s.table t).count.toNat) (hf : f < (s.table t).count.toNat) (hne : e ≠ f) :
      isPrefix (s.vlcEntry t e) (s.vlcEntry t f) = false := by
    rw [isPrefix, Bool.and_eq_false_imp, ← Nat.shiftRight_eq_div_pow, beq_eq_false_iff_ne, decide_eq_true_eq]
    exact h e f he hf hne
  rw [prefixFree_iff, State.vlcEntries, List.pairwise_map]
  refine List.Pairwise.imp_of_mem (fun he hf hlt => ?_) List.pairwise_lt_range
  have he' := List.mem_range.1 he
  have hf' := List.mem_range.1 hf
  exact ⟨hno _ _ he' hf' hlt.ne, hno _ _ hf' he' hlt.ne'⟩

theorem prefixFreeTable_iff_check (s : State) (t : BitVec 4) :
    PrefixFreeTable s t ↔ prefixFree (s.vlcEntries t) = true :=
  ⟨check_of_prefixFreeTable, prefixFreeTable_of_check⟩

/-- The checks of VLC_END, in their order (R109). -/
theorem vlcEnd_checks {s : State} (herr : s.err = 0) (t : BitVec 4) :
    ((s.table t).state ≠ 1 →
      exec (.vlcEnd t) s = .next (Spec.raised s 5 (BitVec.ofNat 32 (0x100 + t.toNat)))) ∧
    ((s.table t).state = 1 → (s.table t).count = 0 ∨ ¬PrefixFreeTable s t →
      exec (.vlcEnd t) s = .next (Spec.raised s 5 (BitVec.ofNat 32 (0x300 + t.toNat)))) ∧
    ((s.table t).state = 1 → ¬((s.table t).count = 0 ∨ ¬PrefixFreeTable s t) →
      exec (.vlcEnd t) s = .next (Spec.finished (s.setTable t { s.table t with state := 2 }))) := by
  have hempty : (s.table t).count = 0 ↔ (s.table t).count.toNat = 0 := BitVec.toNat_inj.symm
  simp only [← errorInfo_tableState, ← errorInfo_tableCodes, exec, execVlcEnd, Bool.or_eq_true, decide_eq_true_eq,
    hempty, prefixFreeTable_iff_check, Bool.not_eq_true, Bool.not_eq_true']
  refine ⟨fun hstate => run_check_raised herr hstate _ _, fun hstate hbad => ?_, fun hstate hok => ?_⟩
  · rw [if_neg (not_not.2 hstate)]
    exact run_check_raised herr hbad _ _
  · rw [if_neg (not_not.2 hstate), if_neg hok]
    exact run_ok_finished herr _

/-- Settles O30: the check of VLC_END is `PrefixFreeTable` (`prefixFreeTable_iff_check`). -/
theorem vlcEndChecksPrefixFreedom : Obligations.VlcEndChecksPrefixFreedom := by
  unfold Obligations.VlcEndChecksPrefixFreedom
  refine ⟨fun t => decode_match_add (i := .vlcEnd t) rfl, fun s t herr => ?_⟩
  obtain ⟨hstateErr, hcodesErr, hvalid⟩ := vlcEnd_checks herr t
  refine ⟨fun hstate hcount hfree => ?_, hcodesErr, hstateErr⟩
  exact ⟨_, hvalid hstate (by simp only [not_or, not_not]; exact ⟨hcount, hfree⟩), rfl, s.table_setTable_self t _,
    fun t' ht => (s.table_setTable t t' _).trans (if_neg ht)⟩

end Sys2Proof.Machine
end

section
/-! SUPPORT. BR_VLC as whole next states (R106): the search finds an entry whose code is next, and in a table that
VLC_END accepts (R109) there is at most one. -/

namespace Sys2Proof.Machine

/-! An entry whose code is next. -/

/-- The code of `e` is next, within `limit` bits (R106). -/
def NextCode (s : State) (limit : Nat) (e : VlcEntry) : Prop :=
  1 ≤ e.len.toNat ∧ e.len.toNat ≤ limit ∧ Spec.CodeMatches s e

theorem codeMatches_iff (s : State) (e : VlcEntry) :
    Spec.CodeMatches s e ↔ e.code.toNat = s.windowBits s.brPos.toNat e.len.toNat :=
  isBits_iff s _ _

/-- The first bits of a value are the value of the first bits. -/
theorem State.windowBits_shiftRight (s : State) (p : Nat) {m n : Nat} (h : m ≤ n) :
    s.windowBits p n >>> (n - m) = s.windowBits p m := by
  have hlow := s.windowBits_lt (p + m) (n - m)
  obtain ⟨k, rfl⟩ := Nat.exists_eq_add_of_le h
  rw [Nat.add_sub_cancel_left] at hlow ⊢
  rw [s.windowBits_add, Nat.shiftRight_eq_div_pow, Nat.mul_comm, Nat.mul_add_div (Nat.two_pow_pos k),
    Nat.div_eq_of_lt hlow, Nat.add_zero]

/-- Of two codes at the cursor the shorter is how the longer begins. -/
theorem codeMatches_shiftRight {s : State} {e f : VlcEntry} (he : Spec.CodeMatches s e) (hf : Spec.CodeMatches s f)
    (hle : e.len.toNat ≤ f.len.toNat) : f.code.toNat >>> (f.len.toNat - e.len.toNat) = e.code.toNat := by
  rw [(codeMatches_iff s e).1 he, (codeMatches_iff s f).1 hf, s.windowBits_shiftRight _ hle]

/-- Of codes none of which begins another at most one is next. -/
theorem PrefixFreeTable.codeMatches_unique {s : State} {t : BitVec 4} (h : PrefixFreeTable s t) {e f : Nat}
    (he : e < (s.table t).count.toNat) (hf : f < (s.table t).count.toNat) (hme : Spec.CodeMatches s (s.vlcEntry t e))
    (hmf : Spec.CodeMatches s (s.vlcEntry t f)) : e = f := by
  by_contra hne
  rcases Nat.le_total (s.vlcEntry t e).len.toNat (s.vlcEntry t f).len.toNat with hle | hle
  · exact h e f he hf hne hle (codeMatches_shiftRight hme hmf hle)
  · exact h f e hf he (Ne.symm hne) hle (codeMatches_shiftRight hmf hme hle)

/-! The search (R106). -/

theorem findCode_eq_some {es : List VlcEntry} {l v : Nat} {e : VlcEntry} (h : findCode es l v = some e) :
    e ∈ es ∧ e.len.toNat = l ∧ e.code.toNat = v := by
  have hprop := List.find?_some h
  simp only [Bool.and_eq_true, beq_iff_eq] at hprop
  exact ⟨List.mem_of_find?_eq_some h, hprop⟩

theorem findCode_eq_none_iff (es : List VlcEntry) (l v : Nat) :
    findCode es l v = none ↔ ∀ e ∈ es, ¬(e.len.toNat = l ∧ e.code.toNat = v) := by
  simp only [findCode, List.find?_eq_none, Bool.and_eq_true, beq_iff_eq]

theorem State.vlcMatch_some {s : State} {es : List VlcEntry} {limit : Nat} {e : VlcEntry}
    (h : s.vlcMatch es limit = some e) : e ∈ es ∧ NextCode s limit e := by
  obtain ⟨l, hl, hfind⟩ := List.exists_of_findSome?_eq_some h
  obtain ⟨hlow, hhigh⟩ := List.mem_range'_1.1 hl
  obtain ⟨hmem, rfl, hcode⟩ := findCode_eq_some hfind
  exact ⟨hmem, hlow, by omega, (codeMatches_iff s e).2 hcode⟩

theorem State.vlcMatch_eq_none_iff (s : State) (es : List VlcEntry) (limit : Nat) :
    s.vlcMatch es limit = none ↔ ∀ e ∈ es, ¬NextCode s limit e := by
  simp only [State.vlcMatch, List.findSome?_eq_none_iff, findCode_eq_none_iff, List.mem_range'_1]
  constructor
  · rintro h e he ⟨hlow, hhigh, hcode⟩
    exact h _ ⟨hlow, by omega⟩ e he ⟨rfl, (codeMatches_iff s e).1 hcode⟩
  · rintro h l ⟨hlow, hhigh⟩ e he ⟨rfl, hcode⟩
    exact h e he ⟨hlow, by omega, (codeMatches_iff s e).2 hcode⟩

theorem State.mem_vlcEntries (s : State) (t : BitVec 4) (x : VlcEntry) :
    x ∈ s.vlcEntries t ↔ ∃ e, e < (s.table t).count.toNat ∧ s.vlcEntry t e = x := by
  simp only [State.vlcEntries, List.mem_map, List.mem_range]

/-- Of codes none of which begins another the search answers the one that is next. -/
theorem PrefixFreeTable.vlcMatch_eq {s : State} {t : BitVec 4} (h : PrefixFreeTable s t) {limit e : Nat}
    (he : e < (s.table t).count.toNat) (hnext : NextCode s limit (s.vlcEntry t e)) :
    s.vlcMatch (s.vlcEntries t) limit = some (s.vlcEntry t e) := by
  cases hm : s.vlcMatch (s.vlcEntries t) limit with
  | none => exact absurd hnext ((s.vlcMatch_eq_none_iff _ _).1 hm _ ((s.mem_vlcEntries t _).2 ⟨e, he, rfl⟩))
  | some x =>
    obtain ⟨hmem, -, -, hcode⟩ := State.vlcMatch_some hm
    obtain ⟨f, hf, rfl⟩ := (s.mem_vlcEntries t x).1 hmem
    obtain ⟨-, -, hcode'⟩ := hnext
    rw [h.codeMatches_unique hf he hcode hcode']

/-! BR_VLC (R106). -/

/-- `s` after BR_VLC has matched `x`. -/
def State.decoded (s : State) (x : VlcEntry) : State :=
  { s with res0 := x.sym.setWidth 32, res1 := x.len.setWidth 32, brPos := s.brPos + x.len.setWidth 20 }

/-- The number of bits BR_VLC may look at: MAXLEN, or what is left. -/
def State.vlcLimit (s : State) (t : BitVec 4) : Nat := min (s.table t).maxlen.toNat (Spec.bitsLeft s)

theorem exec_brVlc_match {s : State} {t : BitVec 4} {x : VlcEntry} (herr : s.err = 0) (hstate : (s.table t).state = 2)
    (hm : s.vlcMatch (s.vlcEntries t) (s.vlcLimit t) = some x) :
    exec (.brVlc t) s = .next (Spec.finished (s.decoded x)) := by
  rw [State.vlcLimit, Spec.bitsLeft] at hm
  simp only [exec, execBrVlc, hm, if_neg (not_not.2 hstate)]
  exact run_ok_finished herr _

theorem exec_brVlc_none {s : State} {t : BitVec 4} (herr : s.err = 0) (hstate : (s.table t).state = 2)
    (hm : s.vlcMatch (s.vlcEntries t) (s.vlcLimit t) = none) :
    (Spec.bitsLeft s < (s.table t).maxlen.toNat →
      exec (.brVlc t) s = .next (Spec.raised s 1 (s.brPos.setWidth 32))) ∧
    ((s.table t).maxlen.toNat ≤ Spec.bitsLeft s →
      exec (.brVlc t) s = .next (Spec.raised s 2 (s.brPos.setWidth 32))) := by
  simp only [State.vlcLimit, Spec.bitsLeft] at hm ⊢
  simp only [exec, execBrVlc, hm, if_neg (not_not.2 hstate)]
  refine ⟨fun hshort => run_check_raised herr hshort _ _, fun henough => ?_⟩
  rw [if_neg (Nat.not_lt.2 henough)]
  exact run_error_raised herr _

/-- Settles O31: the search answers the next code by `PrefixFreeTable.vlcMatch_eq`, or none. -/
theorem brVlcDecodesTheMatchingCode : Obligations.BrVlcDecodesTheMatchingCode := by
  unfold Obligations.BrVlcDecodesTheMatchingCode
  refine ⟨fun t => decode_match_add (i := .brVlc t) rfl, fun s t herr => ⟨?found, ?none, fun hstate => ?_⟩⟩
  case found =>
    intro hstate hfree e he hmin hmax hleft hcode
    have hm := hfree.vlcMatch_eq he (limit := s.vlcLimit t) ⟨hmin, le_min hmax hleft, hcode⟩
    have hlen := s.brLen.isLt
    rw [Spec.bitsLeft] at hleft
    refine ⟨_, exec_brVlc_match herr hstate hm, rfl, BitVec.toNat_setWidth_of_le (by decide),
      BitVec.toNat_setWidth_of_le (by decide), ?_⟩
    simp only [Spec.finished, State.decoded, BitVec.toNat_add, BitVec.toNat_setWidth]
    omega
  case none =>
    intro hstate hno
    refine exec_brVlc_none herr hstate ((s.vlcMatch_eq_none_iff _ _).2 fun x hx => ?_)
    obtain ⟨e, he, rfl⟩ := (s.mem_vlcEntries t x).1 hx
    rintro ⟨hmin, hmax, hcode⟩
    exact hno e he hmin (hmax.trans (Nat.min_le_left _ _)) (hmax.trans (Nat.min_le_right _ _)) hcode
  · rw [← errorInfo_tableState]
    exact run_check_raised herr hstate _ _

end Sys2Proof.Machine
end

section
/-! SUPPORT. The checks that several commands share: the error lock, the channel and the group a command names (R130,
R159, R223), and a command that makes one check before it commits. -/

namespace Sys2Proof.Machine

/-! The error lock (R131, R134, R223). -/

/-- Every command but ERR_CLR runs behind the error lock. -/
theorem exec_eq_run {i : Instr} (h : i ≠ .errClr) (s : State) : ∃ r, exec i s = run s r := by
  cases i with
  | errClr => exact absurd rfl h
  | _ => exact ⟨_, rfl⟩

theorem exec_locked {i : Instr} {s : State} (h : s.err ≠ 0) (hi : i ≠ .errClr) :
    exec i s = .next (Spec.finished s) := by
  obtain ⟨r, hr⟩ := exec_eq_run hi s
  rw [hr]
  exact run_locked h r

theorem exec_nop (s : State) : exec .nop s = .next (Spec.finished s) := by
  by_cases h : s.err = 0
  · exact run_ok_finished h s
  · exact exec_locked h (by decide)

/-- The row of NOP fixes every bit of the word (R84). -/
theorem decode_eq_nop_iff (w : Word) : decode w = .ok .nop ↔ w = 0 := by
  have hmask : w &&& (Laws.TableWord.row .nop).1 = w := BitVec.and_allOnes
  rw [decode_eq_ok_iff, hmask]
  exact and_iff_left rfl

/-- Settles O32: NOP and the lock by `exec_nop` and `exec_locked`; ERR_CLR runs outside the lock. -/
theorem nopAndErrClr : Obligations.NopAndErrClr := by
  unfold Obligations.NopAndErrClr
  exact ⟨decode_eq_nop_iff, rfl, rfl, fun s =>
    ⟨exec_nop s, fun h => runWord_reservedBits h rfl, rfl, fun _ h hi => exec_locked h hi⟩⟩

/-! The channel and the group a command names (R130, R159). -/

theorem hasChannel_eq_false_iff (s : State) (c : BitVec 3) : s.hasChannel c = false ↔ s.cfgNch.toNat ≤ c.toNat := by
  simp [State.hasChannel]

/-- A command that names a channel checks it first (R130). -/
theorem exec_of_channelOf {i : Instr} {c : BitVec 3} (h : Spec.channelOf i = some c) (s : State) :
    ∃ r, exec i s = runConfigured s (if !s.hasChannel c then .error .operandRange else r) := by
  cases i with
  | chQset _ | sfSet _ _ | coefClr _ | dequant _ | imdct _ | window _ | pcmZero _ | prevSet _ =>
    cases h
    exact ⟨_, rfl⟩
  | _ => cases h

/-- A matrix command on a group checks first that the group is set (R159). -/
theorem exec_of_groupOf {i : Instr} {g : BitVec 3} (h : Spec.groupOf i = some g) (s : State) :
    ∃ r, exec i s = runConfigured s (if (s.group g).count = 0 then .error .noGroup else r) := by
  cases i with
  | mxIdent _ | mxMs45 _ | mxWrite _ _ _ | mxAng _ _ _ | mxSigns _ _ | mxRot _ | mxApply _ =>
    cases h
    exact ⟨_, rfl⟩
  | _ => cases h

theorem exec_missing_channel {i : Instr} {s : State} {c : BitVec 3} (hr : Spec.Ready s)
    (h : Spec.channelOf i = some c) (hc : s.cfgNch.toNat ≤ c.toNat) : exec i s = .next (Spec.raised s 4 3) := by
  obtain ⟨r, he⟩ := exec_of_channelOf h s
  rw [he, (hasChannel_eq_false_iff s c).2 hc]
  exact runConfigured_error hr _

/-- On a channel that exists the command goes on to the checks of its own. -/
theorem runConfigured_of_channel {s : State} {c : BitVec 3} (hc : c.toNat < s.cfgNch.toNat) (e : CmdError)
    (r : Except CmdError State) : runConfigured s (if !s.hasChannel c then .error e else r) = runConfigured s r := by
  rw [if_neg (by simpa [State.hasChannel] using hc)]

/-- Settles O18: both checks are the first after the configuration's. -/
theorem channelAndGroupErrors : Obligations.ChannelAndGroupErrors := by
  unfold Obligations.ChannelAndGroupErrors
  refine fun s i hr => ⟨fun c h hc => exec_missing_channel hr h hc, fun g h hsize => ?_⟩
  obtain ⟨r, he⟩ := exec_of_groupOf h s
  have hcount : (s.group g).count = 0 := by rw [Group.count, hsize]; rfl
  rw [he, if_pos hcount]
  exact runConfigured_error hr _

/-! A command with one check, which the operands pass when `p` holds. -/

section

variable {s : State} {c p : Prop} [Decidable c] {e : CmdError} {t : State}

theorem run_check (herr : s.err = 0) (hc : c ↔ ¬p) :
    (p → run s (if c then .error e else .ok t) = .next (Spec.finished t)) ∧
    (¬p → run s (if c then .error e else .ok t) = .next (Spec.raised s (errorCode e) (errorInfo e))) := by
  refine ⟨fun hp => ?_, fun hp => run_check_raised herr (hc.2 hp) e _⟩
  rw [if_neg (not_not.2 hp ∘ hc.1)]
  exact run_ok_finished herr t

theorem runConfigured_check (hr : Spec.Ready s) (hc : c ↔ ¬p) :
    (p → runConfigured s (if c then .error e else .ok t) = .next (Spec.finished t)) ∧
    (¬p → runConfigured s (if c then .error e else .ok t) =
      .next (Spec.raised s (errorCode e) (errorInfo e))) := by
  rw [runConfigured_eq hr.2]
  exact run_check hr.1 hc

end

end Sys2Proof.Machine
end

section
/-! SUPPORT. The stream's configuration and the subframe as whole next states: CFG, REMAP_SET, SUB_SET, SFB_SET and
QS_SET (R132, R133, R136-R138). -/

namespace Sys2Proof.Machine

/-! Values that fit their register (R7), and one register of a list. -/

theorem toNat_ofNat_of_fits {w n : Nat} (h : n < 2 ^ w) : (BitVec.ofNat w n).toNat = n := by
  rw [BitVec.toNat_ofNat, Nat.mod_eq_of_lt h]

theorem toNat_setWidth_of_fits {v w : Nat} {x : BitVec v} (h : x.toNat < 2 ^ w) : (x.setWidth w).toNat = x.toNat := by
  rw [BitVec.toNat_setWidth, Nat.mod_eq_of_lt h]

/-- One entry of a list of registers written, the others as before. -/
theorem getD_setIfInBounds {α : Type} {n : Nat} (v : Vector α n) {b : Nat} (hb : b < n) (x d : α) (k : Nat) :
    (v.setIfInBounds b x).getD k d = if k = b then x else v.getD k d := by
  split
  next hk => simp [Vector.getD, hk, hb]
  next hk => simp [Vector.getD, Ne.symm hk]

/-! CFG (R132). -/

/-- CFG_SPF / CFG_MAXSUB ≥ 128, without the division. -/
theorem legalCfg_iff (nch spf maxsub : Nat) : Spec.LegalCfg nch spf maxsub ↔ LegalConfig nch spf maxsub := by
  have hdiv (h : Spec.Pow2 maxsub) : 128 * maxsub ≤ spf ↔ 128 ≤ spf / maxsub := by
    obtain ⟨k, rfl⟩ := h
    exact (Nat.le_div_iff_mul_le (Nat.two_pow_pos k)).symm
  simp only [Spec.LegalCfg, LegalConfig, isPow2_iff]
  constructor
  · rintro ⟨h₁, h₈, hpow, hlo, hhi, hmpow, hmin⟩
    exact ⟨h₁, h₈, hpow, hlo, hhi, hmpow, (hdiv hmpow).1 hmin⟩
  · rintro ⟨h₁, h₈, hpow, hlo, hhi, hmpow, hmin⟩
    exact ⟨h₁, h₈, hpow, hlo, hhi, hmpow, (hdiv hmpow).2 hmin⟩

/-- The three checks of CFG raise the same error, so they are one check. -/
theorem cfg_checks {s : State} (herr : s.err = 0) :
    (Spec.LegalCfg s.arg0.toNat s.arg1.toNat s.arg2.toNat → exec .cfg s =
      .next (Spec.finished (s.configure s.arg0.toNat s.arg1.toNat s.arg2.toNat))) ∧
    (¬Spec.LegalCfg s.arg0.toNat s.arg1.toNat s.arg2.toNat → exec .cfg s = .next (Spec.raised s 4 3)) := by
  rw [legalCfg_iff]
  simp only [exec, execCfg, ← ite_or]
  refine run_check herr ?_
  simp only [LegalConfig, not_and_or, Bool.not_eq_true, Nat.not_le, Bool.or_eq_true, Bool.not_eq_true',
    decide_eq_true_eq, gt_iff_lt, or_assoc]

/-- The erasure of the first n PCM channels (R42). -/
theorem readByte_erasePcm (m : Memory) (a n : Nat) :
    readByte ((List.range n).foldl (fun m c => eraseBytes m (pcmAddr c 0) (4 * Config.pcmWords)) m) a =
      if 0x40000 ≤ a ∧ a < 0x40000 + 0x8000 * n ∧ a % 0x8000 < 4 * 6144 then 0 else readByte m a := by
  induction n with
  | zero => rw [if_neg (by omega)]; rfl
  | succ n ih =>
    rw [List.range_succ, List.foldl_append, List.foldl_cons, List.foldl_nil, readByte_eraseBytes, ih, pcmAddr,
      Config.pcmWords]
    by_cases h : 0x40000 + 0x8000 * n + 4 * 0 ≤ a ∧ a < 0x40000 + 0x8000 * n + 4 * 0 + 4 * 6144
    · rw [if_pos h, if_pos (by omega)]
    · rw [if_neg h]
      exact if_congr (by omega) rfl rfl

/-- COEF, the words of every PCM channel and OUT become 0, and every other byte stays. -/
theorem readByte_clearDataRams (m : Memory) (a : Nat) :
    (0x20000 ≤ a → InRam a → readByte (clearDataRams m) a = 0) ∧
    (a < 0x20000 ∨ ¬InRam a → readByte (clearDataRams m) a = readByte m a) := by
  simp only [clearDataRams, readByte_eraseBytes, readByte_erasePcm, coefAddr, outAddr, InRam, Config.maxCh,
    Config.pcmWords]
  constructor
  · rintro hlo (hcoef | hpcm | hout)
    · rw [if_neg (by omega), if_neg (by omega), if_pos (by omega)]
    · rw [if_neg (by omega), if_pos (by omega)]
    · rw [if_pos (by omega)]
  · intro h
    rw [if_neg (by omega), if_neg (by omega), if_neg (by omega)]

section

variable (s : State) (nch spf maxsub : Nat)

theorem State.configure_channel (c : BitVec 3) :
    (s.configure nch spf maxsub).channel c = { Channel.reset with prevLen := BitVec.ofNat 13 spf } := by
  simp [State.channel, State.configure]

theorem State.configure_group (g : BitVec 3) : (s.configure nch spf maxsub).group g = Group.reset := by
  simp [State.group, State.configure]

end

/-- Settles O33: the registers field by field, memory by `readByte_clearDataRams`. -/
theorem cfgStartsAStream : Obligations.CfgStartsAStream := by
  unfold Obligations.CfgStartsAStream
  refine ⟨rfl, fun s herr => ⟨fun hlegal => ?_, (cfg_checks herr).2⟩⟩
  refine ⟨_, (cfg_checks herr).1 hlegal, rfl, ?_⟩
  obtain ⟨-, h₈, -, -, hspf, -, hmin⟩ := hlegal
  refine ⟨toNat_ofNat_of_fits (by omega), toNat_ofNat_of_fits (by omega), toNat_ofNat_of_fits (by omega), fun c => ?channel,
    fun g => ?group, fun b => ?bound, fun a => (readByte_clearDataRams s.mem a).1,
    fun a => (readByte_clearDataRams s.mem a).2⟩
  case channel =>
    have hchan : (Spec.finished (s.configure s.arg0.toNat s.arg1.toNat s.arg2.toNat)).channel c =
        { Channel.reset with prevLen := BitVec.ofNat 13 s.arg1.toNat } :=
      s.configure_channel s.arg0.toNat s.arg1.toNat s.arg2.toNat c
    rw [hchan]
    refine ⟨rfl, rfl, rfl, rfl, fun b hb => ?_⟩
    simp [Channel.reset, Vector.getD, hb]
  case group => exact s.configure_group s.arg0.toNat s.arg1.toNat s.arg2.toNat g
  case bound => exact State.bound_of_cleared rfl b

/-! REMAP_SET (R133). -/

/-- Bits [4k+3:4k] of ARG0 are its nibble k. -/
theorem argMember_eq_nibble (s : State) (k : Nat) : Spec.argMember s k = nibble s.arg0 k := by
  rw [Spec.argMember, nibble, Nat.pow_mul]

theorem remapSet_checks {s : State} (herr : s.err = 0) :
    ((∀ k, k < 6 → ∃ j, j < 6 ∧ Spec.argMember s j = k) →
      exec .remapSet s = .next (Spec.finished { s with remap6 := s.arg0.extractLsb' 0 24 })) ∧
    (¬(∀ k, k < 6 → ∃ j, j < 6 ∧ Spec.argMember s j = k) → exec .remapSet s = .next (Spec.raised s 4 3)) := by
  simp only [argMember_eq_nibble, ← isRemap_iff]
  exact run_check herr (by simp)

/-- Settles O34: `isRemap` is the permutation of R133, and a missing slot number is its negation. -/
theorem remapSetTakesPermutations : Obligations.RemapSetTakesPermutations := by
  unfold Obligations.RemapSetTakesPermutations
  refine ⟨rfl, fun s herr => ⟨(remapSet_checks herr).1, ?_⟩⟩
  rintro ⟨k, hk, hmissing⟩
  refine (remapSet_checks herr).2 fun h => ?_
  obtain ⟨j, hj, heq⟩ := h k hk
  exact hmissing j hj heq

/-! SUB_SET (R136). -/

theorem decode_subSet {n : Nat} (h : n < 64) : decode (0x20000000#32 + BitVec.ofNat 32 n) = .ok (.subSet n) := by
  rw [← setWidth_ofNat_of_lt (k := 6) h]
  exact decode_match_add (i := .subSet n) (decide_eq_true h)

/-- The subframe length that R136 accepts. -/
def SubLengthOk (s : State) : Prop :=
  Spec.Pow2 s.arg0.toNat ∧ s.cfgSpf.toNat / s.cfgMaxsub.toNat ≤ s.arg0.toNat ∧ s.arg0.toNat ≤ s.cfgSpf.toNat ∧
    s.arg1.toNat + s.arg0.toNat ≤ s.cfgSpf.toNat

/-- `s` with the subframe of SUB_SET's operands. -/
def State.setSubframe (s : State) (nb : Nat) : State :=
  { s with subN := BitVec.ofNat 13 s.arg0.toNat, subOff := BitVec.ofNat 13 s.arg1.toNat, subNb := BitVec.ofNat 6 nb,
           subValid := true }

theorem exec_subSet_bandCount {s : State} {nb : Nat} (hr : Spec.Ready s) (hnb : nb < 1 ∨ 32 < nb) :
    exec (.subSet nb) s = .next (Spec.raised s 3 2) := by
  rw [exec, execSubSet, if_pos (by simpa using hnb)]
  exact runConfigured_error hr _

/-- With NB in its range the two checks of the length raise the same error, so they are one check. -/
theorem subSet_length_check {s : State} {nb : Nat} (hr : Spec.Ready s) (hmin : 1 ≤ nb) (hmax : nb ≤ 32) :
    (SubLengthOk s → exec (.subSet nb) s = .next (Spec.finished (s.setSubframe nb))) ∧
    (¬SubLengthOk s → exec (.subSet nb) s = .next (Spec.raised s 3 1)) := by
  rw [exec, execSubSet, if_neg (by simp; omega), ← ite_or]
  refine runConfigured_check hr ?_
  simp only [SubLengthOk, Spec.Pow2, ← isPow2_iff, not_and_or, Bool.not_eq_true, Nat.not_le, Bool.or_eq_true,
    Bool.not_eq_true', decide_eq_true_eq, gt_iff_lt, or_assoc]

/-- Settles O35: N, OFF and NB fit their registers once the checks have passed. -/
theorem subSetChecksTheSubframe : Obligations.SubSetChecksTheSubframe := by
  unfold Obligations.SubSetChecksTheSubframe
  refine ⟨fun n hn => decode_subSet hn, fun s nb hr => ⟨fun hmin hmax hok => ?_, exec_subSet_bandCount hr,
    fun hmin hmax => (subSet_length_check hr hmin hmax).2⟩⟩
  refine ⟨_, (subSet_length_check hr hmin hmax).1 hok, rfl, ?_⟩
  obtain ⟨-, -, hn, hend⟩ := hok
  have hspf := s.cfgSpf.isLt
  exact ⟨toNat_ofNat_of_fits (by omega), toNat_ofNat_of_fits (by omega), toNat_ofNat_of_fits (by omega)⟩

/-! SFB_SET and QS_SET (R137, R138). -/

theorem decode_sfbSet {n : Nat} (h : n < 64) : decode (0x21000000#32 + BitVec.ofNat 32 n) = .ok (.sfbSet n) := by
  rw [← setWidth_ofNat_of_lt (k := 6) h]
  exact decode_match_add (i := .sfbSet n) (decide_eq_true h)

theorem sfbSet_check {s : State} (hr : Spec.Ready s) (b : Nat) :
    (b ≤ 32 ∧ s.arg0.toNat ≤ 4096 → exec (.sfbSet b) s =
      .next (Spec.finished { s with sfb := s.sfb.setIfInBounds b (s.arg0.setWidth 13) })) ∧
    (¬(b ≤ 32 ∧ s.arg0.toNat ≤ 4096) → exec (.sfbSet b) s = .next (Spec.raised s 4 3)) := by
  refine runConfigured_check hr ?_
  simp only [Bool.or_eq_true, decide_eq_true_eq, Config.maxBands, Config.maxBlock]
  omega

/-- The boundary written, and every other as before. -/
theorem State.bound_of_set {s u : State} {b : Nat} {v : BitVec 13} (h : u.sfb = s.sfb.setIfInBounds b v) (hb : b ≤ 32)
    (k : Nat) : u.bound k = if k = b then v.toNat else s.bound k := by
  rw [State.bound, h, getD_setIfInBounds _ (by omega), apply_ite BitVec.toNat, State.bound]

/-- The operand is a signed 16-bit number (R130). -/
def FitsInt16 (x : Word) : Prop := -32768 ≤ x.toInt ∧ x.toInt ≤ 32767

theorem fitsInt16_iff (x : Word) : FitsInt16 x ↔ isInt16 x = true := (isInt16_iff x).symm

/-- A 16-bit operand is stored with its value (R130). -/
theorem low16_toInt {x : Word} (h : FitsInt16 x) : (low16 x).toInt = x.toInt := by
  obtain ⟨hlo, hhi⟩ := h
  have hx := x.isLt
  have hlow : (low16 x).toNat = x.toNat % 65536 := by simp [low16]
  simp only [BitVec.toInt_eq_toNat_cond, hlow] at hlo hhi ⊢
  split_ifs at hlo hhi ⊢ <;> omega

theorem qsSet_check {s : State} (hr : Spec.Ready s) :
    (FitsInt16 s.arg0 → exec .qsSet s = .next (Spec.finished { s with qstep := low16 s.arg0 })) ∧
    (¬FitsInt16 s.arg0 → exec .qsSet s = .next (Spec.raised s 4 3)) := by
  rw [fitsInt16_iff]
  exact runConfigured_check hr (by simp)

/-- Settles O36: the stored values by `State.bound_of_set` and `low16_toInt`. -/
theorem sfbSetAndQsSetStore : Obligations.SfbSetAndQsSetStore := by
  unfold Obligations.SfbSetAndQsSetStore
  refine ⟨fun n hn => decode_sfbSet hn, rfl, fun s b hr => ⟨fun hb harg => ?_, fun hbad => ?_, fun hlo hhi => ?_,
    fun hbad => (qsSet_check hr).2 (by unfold FitsInt16; omega)⟩⟩
  · refine ⟨_, (sfbSet_check hr b).1 ⟨hb, harg⟩, rfl, ?_, fun k hk => ?_⟩
    · refine (State.bound_of_set (s := s) rfl hb b).trans ((if_pos rfl).trans ?_)
      exact toNat_setWidth_of_fits (by omega)
    · exact (State.bound_of_set (s := s) rfl hb k).trans (if_neg hk)
  · exact (sfbSet_check hr b).2 (by omega)
  · exact ⟨_, (qsSet_check hr).1 ⟨hlo, hhi⟩, rfl, low16_toInt ⟨hlo, hhi⟩⟩

end Sys2Proof.Machine
end

section
/-! SUPPORT. The commands on one channel's registers and coefficients as whole next states: CH_QSET, SF_SET, PREV_SET
and COEF_CLR (R139-R142). -/

namespace Sys2Proof.Machine

/-! SF_SET's word (R81, format CB). -/

/-- Fields at their own bits of the word are added without a carry. -/
theorem setWidth_add_shiftLeft {m n k : Nat} (x : BitVec m) (y : BitVec n) (h : m ≤ k) :
    x.setWidth 32 + y.setWidth 32 <<< k = x.setWidth 32 ||| y.setWidth 32 <<< k := by
  refine BitVec.add_eq_or_of_and_eq_zero _ _ ?_
  ext j hj
  by_cases hm : j < m
  · simp [show j < k by omega]
  · simp [BitVec.getLsbD_of_ge x j (by omega)]

theorem decode_sfSet (c : BitVec 3) (b : BitVec 5) :
    decode (0x24000000#32 + c.setWidth 32 + b.setWidth 32 <<< 8) = .ok (.sfSet c b) := by
  rw [BitVec.add_assoc, setWidth_add_shiftLeft c b (by decide)]
  exact decode_match_add (i := .sfSet c b) rfl

/-! The registers of one channel (R139, R140, R142). -/

/-- The block length that PREV_SET accepts (R142). -/
def PrevArgOk (s : State) : Prop :=
  Spec.Pow2 s.arg0.toNat ∧ 128 ≤ s.arg0.toNat ∧ s.arg0.toNat ≤ s.cfgSpf.toNat

section

variable {s : State} {c : BitVec 3}

theorem otherChannels_setChannel (s : State) (c : BitVec 3) (r : Channel) :
    Spec.OtherChannels s (Spec.finished (s.setChannel c r)) c :=
  fun d hd => (s.channel_setChannel c d r).trans (if_neg hd)

theorem channel_finished_setChannel (s : State) (c : BitVec 3) (r : Channel) :
    (Spec.finished (s.setChannel c r)).channel c = r :=
  s.channel_setChannel_self c r

variable (hr : Spec.Ready s) (hc : c.toNat < s.cfgNch.toNat)

include hr hc

theorem chQset_check :
    (FitsInt16 s.arg0 ∧ s.arg1.toNat ≤ 255 ∧ FitsInt16 s.arg2 →
      exec (.chQset c) s = .next (Spec.finished (s.setChannel c { s.channel c with
        qmod := low16 s.arg0, sfstep := s.arg1.setWidth 8, maxsf := low16 s.arg2 }))) ∧
    (¬(FitsInt16 s.arg0 ∧ s.arg1.toNat ≤ 255 ∧ FitsInt16 s.arg2) →
      exec (.chQset c) s = .next (Spec.raised s 4 3)) := by
  rw [exec, execChQset, runConfigured_of_channel hc]
  refine runConfigured_check hr ?_
  simp only [fitsInt16_iff, not_and_or, Bool.not_eq_true, Nat.not_le, Bool.or_eq_true, Bool.not_eq_true',
    decide_eq_true_eq, gt_iff_lt, or_assoc]

theorem sfSet_check (b : BitVec 5) :
    (FitsInt16 s.arg0 → exec (.sfSet c b) s = .next (Spec.finished (s.setChannel c
      { s.channel c with sf := (s.channel c).sf.setIfInBounds b.toNat (low16 s.arg0) }))) ∧
    (¬FitsInt16 s.arg0 → exec (.sfSet c b) s = .next (Spec.raised s 4 3)) := by
  rw [exec, execSfSet, runConfigured_of_channel hc]
  refine runConfigured_check hr ?_
  simp [fitsInt16_iff]

theorem prevSet_check :
    (PrevArgOk s → exec (.prevSet c) s = .next (Spec.finished (s.setChannel c
      { s.channel c with prevLen := BitVec.ofNat 13 s.arg0.toNat }))) ∧
    (¬PrevArgOk s → exec (.prevSet c) s = .next (Spec.raised s 4 3)) := by
  rw [exec, execPrevSet, runConfigured_of_channel hc]
  refine runConfigured_check hr ?_
  simp only [PrevArgOk, Spec.Pow2, ← isPow2_iff, not_and_or, Bool.not_eq_true, Nat.not_le, Bool.or_eq_true,
    Bool.not_eq_true', decide_eq_true_eq, gt_iff_lt, or_assoc]

theorem chQset_stores (h₀ : FitsInt16 s.arg0) (h₁ : s.arg1.toNat ≤ 255) (h₂ : FitsInt16 s.arg2) :
    ∃ u, exec (.chQset c) s = .next u ∧ u = Spec.finished { s with chan := u.chan } ∧
      (u.channel c).qmod.toInt = s.arg0.toInt ∧ (u.channel c).sfstep.toNat = s.arg1.toNat ∧
      (u.channel c).maxsf.toInt = s.arg2.toInt ∧ (u.channel c).prevLen = (s.channel c).prevLen ∧
      (u.channel c).sf = (s.channel c).sf ∧ Spec.OtherChannels s u c := by
  refine ⟨_, (chQset_check hr hc).1 ⟨h₀, h₁, h₂⟩, rfl, ?_⟩
  rw [channel_finished_setChannel]
  exact ⟨low16_toInt h₀, toNat_setWidth_of_fits (by omega), low16_toInt h₂, rfl, rfl, otherChannels_setChannel s c _⟩

theorem sfSet_stores (b : BitVec 5) (h₀ : FitsInt16 s.arg0) :
    ∃ u, exec (.sfSet c b) s = .next u ∧ u = Spec.finished { s with chan := u.chan } ∧
      ((u.channel c).sf.getD b.toNat 0).toInt = s.arg0.toInt ∧
      (∀ b', b' ≠ b.toNat → (u.channel c).sf.getD b' 0 = (s.channel c).sf.getD b' 0) ∧
      u.channel c = { s.channel c with sf := (u.channel c).sf } ∧ Spec.OtherChannels s u c := by
  refine ⟨_, (sfSet_check hr hc b).1 h₀, rfl, ?_⟩
  rw [channel_finished_setChannel]
  refine ⟨?_, fun b' hb => (getD_setIfInBounds _ b.isLt _ _ b').trans (if_neg hb), rfl, otherChannels_setChannel s c _⟩
  rw [getD_setIfInBounds _ b.isLt, if_pos rfl, low16_toInt h₀]

theorem prevSet_stores (h₀ : PrevArgOk s) :
    ∃ u, exec (.prevSet c) s = .next u ∧ u = Spec.finished { s with chan := u.chan } ∧
      (u.channel c).prevLen.toNat = s.arg0.toNat ∧
      u.channel c = { s.channel c with prevLen := (u.channel c).prevLen } ∧ Spec.OtherChannels s u c := by
  refine ⟨_, (prevSet_check hr hc).1 h₀, rfl, ?_⟩
  rw [channel_finished_setChannel]
  obtain ⟨-, -, hspf⟩ := h₀
  have hlt := s.cfgSpf.isLt
  exact ⟨toNat_ofNat_of_fits (by omega), rfl, otherChannels_setChannel s c _⟩

end

/-- Settles O37, command by command. -/
theorem channelRegistersStore : Obligations.ChannelRegistersStore := by
  unfold Obligations.ChannelRegistersStore
  refine ⟨fun c b => ⟨decode_match_add (i := .chQset c) rfl, decode_sfSet c b, decode_match_add (i := .prevSet c) rfl⟩,
    fun s c b hr hc => ⟨exec_missing_channel hr rfl hc, exec_missing_channel hr rfl hc, exec_missing_channel hr rfl hc⟩,
    fun s c b hr hc => ⟨chQset_stores hr hc, fun hbad => (chQset_check hr hc).2 fun ⟨h₀, h₁, h₂⟩ => ?_,
      sfSet_stores hr hc b, (sfSet_check hr hc b).2, prevSet_stores hr hc, (prevSet_check hr hc).2⟩⟩
  rcases hbad with h | h | h
  · exact h h₀
  · omega
  · exact h h₂

/-! COEF_CLR (R141). -/

theorem exec_coefClr {s : State} {c : BitVec 3} (hr : Spec.Ready s) (hc : c.toNat < s.cfgNch.toNat) :
    exec (.coefClr c) s =
      .next (Spec.finished { s with mem := eraseBytes s.mem (coefAddr c.toNat 0) (4 * 4096) }) := by
  rw [exec, execCoefClr, runConfigured_of_channel hc]
  exact runConfigured_ok hr _

/-- Settles O38: the erased bytes are those of the channel's 4096 words. -/
theorem coefClrZeroesTheChannel : Obligations.CoefClrZeroesTheChannel := by
  unfold Obligations.CoefClrZeroesTheChannel
  refine ⟨fun c => decode_match_add (i := .coefClr c) rfl, fun s c hr =>
    ⟨fun hc => ⟨_, exec_coefClr hr hc, rfl, fun i hi => ?_, fun a ha => ?_⟩, exec_missing_channel hr rfl⟩⟩
  · exact (coef_eraseBytes s.mem c.toNat 0 4096 c.toNat i le_rfl hi).trans (if_pos (by omega))
  · refine (readByte_eraseBytes _ _ _ _).trans (if_neg ?_)
    unfold coefAddr at *
    omega

end Sys2Proof.Machine
end

section
/-! SUPPORT. The commands that define a group and its matrix as whole next states: GRP_SET, MX_IDENT, MX_MS45, MX_WRITE,
MX_ANG and MX_SIGNS (R159-R165). -/

namespace Sys2Proof.Machine

/-! Words with fields past the group's (R81, formats GIJ, GKA and GS). -/

/-- A field shifted above every bit of `x` is added without a carry. -/
theorem add_shiftLeft_eq_or {x : Word} {k : Nat} (h : ∀ j, k ≤ j → x.getLsbD j = false) (y : Word) :
    x + y <<< k = x ||| y <<< k := by
  refine BitVec.add_eq_or_of_and_eq_zero _ _ (BitVec.eq_of_getLsbD_eq fun j _ => ?_)
  rw [BitVec.getLsbD_and, BitVec.getLsbD_shiftLeft, BitVec.getLsbD_zero]
  by_cases hj : j < k
  · simp [hj]
  · rw [h j (by omega), Bool.false_and]

/-- Three fields, each above the one before it. -/
theorem add_two_fields {m n k l : Nat} (g : BitVec m) (x : BitVec n) (y : Word) (hg : m ≤ k) (hx : k + n ≤ l) :
    g.setWidth 32 + x.setWidth 32 <<< k + y <<< l = g.setWidth 32 ||| x.setWidth 32 <<< k ||| y <<< l := by
  rw [setWidth_add_shiftLeft g x hg, add_shiftLeft_eq_or fun j hj => ?_]
  simp [BitVec.getLsbD_of_ge g j (by omega), BitVec.getLsbD_of_ge x (j - k) (by omega)]

theorem decode_mxWrite (g i j : BitVec 3) :
    decode (0x13000000#32 + g.setWidth 32 + i.setWidth 32 <<< 4 + j.setWidth 32 <<< 8) = .ok (.mxWrite g i j) := by
  rw [BitVec.add_assoc, BitVec.add_assoc, ← BitVec.add_assoc (g.setWidth 32),
    add_two_fields g i _ (by decide) (by decide)]
  exact decode_match_add (i := .mxWrite g i j) rfl

theorem decode_mxAng (g : BitVec 3) (k : BitVec 5) (a : BitVec 6) :
    decode (0x14000000#32 + g.setWidth 32 + k.setWidth 32 <<< 4 + a.setWidth 32 <<< 16) = .ok (.mxAng g k a) := by
  rw [BitVec.add_assoc, BitVec.add_assoc, ← BitVec.add_assoc (g.setWidth 32),
    add_two_fields g k _ (by decide) (by decide)]
  exact decode_match_add (i := .mxAng g k a) rfl

theorem decode_mxSigns (g : BitVec 3) (sg : BitVec 8) :
    decode (0x15000000#32 + g.setWidth 32 + sg.setWidth 32 <<< 8) = .ok (.mxSigns g sg) := by
  rw [BitVec.add_assoc, setWidth_add_shiftLeft g sg (by decide)]
  exact decode_match_add (i := .mxSigns g sg) rfl

/-! The registers of one group (R35-R37), and the check that it is set (R159). -/

theorem otherGroups_setGroup (s : State) (g : BitVec 3) (r : Group) :
    Spec.OtherGroups s (Spec.finished (s.setGroup g r)) g :=
  fun d hd => (s.group_setGroup g d r).trans (if_neg hd)

theorem group_finished_setGroup (s : State) (g : BitVec 3) (r : Group) :
    (Spec.finished (s.setGroup g r)).group g = r :=
  s.group_setGroup_self g r

theorem Group.count_eq_zero_iff (r : Group) : r.count = 0 ↔ r.size = 0 :=
  (BitVec.toNat_eq (y := 0)).symm

theorem exec_unset_group {i : Instr} {s : State} {g : BitVec 3} (hr : Spec.Ready s)
    (h : Spec.groupOf i = some g) (hsize : (s.group g).size = 0) : exec i s = .next (Spec.raised s 6 3) :=
  (channelAndGroupErrors s i hr).2 g h hsize

/-- On a group that is set the command goes on to the checks of its own. -/
theorem runConfigured_of_group {s : State} {g : BitVec 3} (hset : (s.group g).size ≠ 0) (e : CmdError)
    (r : Except CmdError State) :
    runConfigured s (if (s.group g).count = 0 then .error e else r) = runConfigured s r := by
  rw [if_neg (mt (Group.count_eq_zero_iff _).1 hset)]

/-! GRP_SET (R160). -/

theorem argSize_toNat (x : Word) : (argSize x).toNat = x.toNat % 16 := by
  simp [argSize]

/-- The members that R160 accepts: channels of the stream, none repeated. -/
theorem membersOk_iff (s : State) (n nch : Nat) : membersOk (argMembers s.arg0 n) nch = true ↔
    (∀ k, k < n → Spec.argMember s k < nch) ∧
      ∀ k l, k < n → l < k → Spec.argMember s k ≠ Spec.argMember s l := by
  simp only [membersOk, argMembers, argMember_eq_nibble, Bool.and_eq_true, List.all_eq_true, decide_eq_true_eq,
    List.forall_mem_map, List.mem_range, List.nodup_map_iff_inj_on List.nodup_range]
  refine and_congr_right fun _ => ⟨fun h k l hk hl he => ?_, fun h k hk l hl he => ?_⟩
  · have := h k hk l (by omega) he
    omega
  · rcases Nat.lt_trichotomy k l with hlt | heq | hlt
    · exact absurd he.symm (h l k hl hlt)
    · exact heq
    · exact absurd he (h k l hk hlt)

theorem legalGroup_iff (s : State) (n : Nat) : Spec.LegalGroup s n ↔
    1 ≤ n ∧ n ≤ s.cfgNch.toNat ∧ membersOk (argMembers s.arg0 n) s.cfgNch.toNat = true ∧
      (argOffscale s.arg1 = true → n = 2) := by
  rw [Spec.LegalGroup, membersOk_iff, and_assoc, argOffscale]

/-- The group of GRP_SET's operands (R160). -/
def State.argGroup (s : State) : Group :=
  { ch := BitVec.ofNat 32 (s.arg0.toNat % 16 ^ (argSize s.arg1).toNat)
    size := argSize s.arg1
    offscale := argOffscale s.arg1
    mask := s.arg2
    sgn := 0
    ang := Vector.replicate 28 0
    mat := identity (argSize s.arg1).toNat }

/-- The three checks of GRP_SET raise the same error, so they are one check. -/
theorem grpSet_check {s : State} (hr : Spec.Ready s) (g : BitVec 3) :
    (Spec.LegalGroup s (s.arg1.toNat % 16) →
      exec (.grpSet g) s = .next (Spec.finished (s.setGroup g s.argGroup))) ∧
    (¬Spec.LegalGroup s (s.arg1.toNat % 16) → exec (.grpSet g) s = .next (Spec.raised s 4 3)) := by
  rw [exec, execGrpSet, ← ite_or, ← ite_or]
  refine runConfigured_check hr ?_
  rw [← argSize_toNat, legalGroup_iff]
  simp only [not_and_or, Classical.not_imp, Nat.not_le, Nat.lt_one_iff, Bool.not_eq_true, Bool.or_eq_true,
    Bool.and_eq_true, Bool.not_eq_true', decide_eq_true_eq, gt_iff_lt, ne_eq, or_assoc]

/-- Nibbles 0..n−1 of ARG0 are the members, and no nibble above them is kept (R160). -/
theorem State.argGroup_member (s : State) (k : Nat) :
    s.argGroup.member k = if k < s.arg1.toNat % 16 then Spec.argMember s k else 0 := by
  rw [argMember_eq_nibble, ← argSize_toNat]
  refine nibble_of_mod (toNat_ofNat_of_fits ?_) k
  exact lt_of_le_of_lt (Nat.mod_le _ _) s.arg0.isLt

/-- Settles O39: the operands are checked by `grpSet_check`, the members by `State.argGroup_member`. -/
theorem grpSetDefinesTheGroup : Obligations.GrpSetDefinesTheGroup := by
  unfold Obligations.GrpSetDefinesTheGroup
  refine ⟨fun g => decode_match_add (i := .grpSet g) rfl, fun s g hr => ⟨fun hok => ?_, (grpSet_check hr g).2⟩⟩
  refine ⟨_, (grpSet_check hr g).1 hok, rfl, ?_⟩
  rw [group_finished_setGroup]
  refine ⟨argSize_toNat s.arg1, fun k hk => ?_, fun k hk => ?_, rfl, rfl, rfl, fun k hk => ?_, fun i j hi hj => ?_,
    otherGroups_setGroup s g _⟩
  · exact (s.argGroup_member k).trans (if_pos hk)
  · exact (s.argGroup_member k).trans (if_neg (by omega))
  · simp [State.argGroup, Vector.getD, hk]
  · rw [← argSize_toNat]
    exact matGet_identity _ hi hj

/-! MX_IDENT and MX_MS45 (R161, R162). -/

theorem exec_mxIdent {s : State} {g : BitVec 3} (hr : Spec.Ready s) (hset : (s.group g).size ≠ 0) :
    exec (.mxIdent g) s =
      .next (Spec.finished (s.setGroup g { s.group g with mat := identity (s.group g).count })) := by
  rw [exec, execMxIdent, runConfigured_of_group hset]
  exact runConfigured_ok hr _

theorem mxMs45_check {s : State} {g : BitVec 3} (hr : Spec.Ready s) (hset : (s.group g).size ≠ 0) :
    ((s.group g).count = 2 →
      exec (.mxMs45 g) s = .next (Spec.finished (s.setGroup g { s.group g with mat := ms45 }))) ∧
    ((s.group g).count ≠ 2 → exec (.mxMs45 g) s = .next (Spec.raised s 4 3)) := by
  rw [exec, execMxMs45, runConfigured_of_group hset]
  exact runConfigured_check hr Iff.rfl

theorem matGet_ms45 (i j : Nat) : matGet ms45 i j =
    if 2 ≤ i ∨ 2 ≤ j then 0 else if i = 0 ∧ j = 1 then 0xBF350000#32 else 0x3F350000#32 := by
  split
  next hout => exact matGet_ms45_outside (by omega)
  next hin =>
    have hall : ∀ i, i < 2 → ∀ j, j < 2 →
        matGet ms45 i j = if i = 0 ∧ j = 1 then 0xBF350000#32 else 0x3F350000#32 := by decide
    exact hall i (by omega) j (by omega)

/-- Settles O40: one matrix is replaced, by `identity` or `ms45`. -/
theorem fixedMatrices : Obligations.FixedMatrices := by
  unfold Obligations.FixedMatrices
  refine ⟨fun g => ⟨decode_match_add (i := .mxIdent g) rfl, decode_match_add (i := .mxMs45 g) rfl⟩,
    fun s g hr h0 => ⟨exec_unset_group hr rfl h0, exec_unset_group hr rfl h0⟩,
    fun s g hr hset => ⟨⟨_, exec_mxIdent hr hset, rfl, ?ident⟩,
      fun htwo => ⟨_, (mxMs45_check hr hset).1 htwo, rfl, ?ms45⟩, (mxMs45_check hr hset).2⟩⟩ <;>
    rw [group_finished_setGroup]
  case ident => exact ⟨rfl, otherGroups_setGroup s g _, fun i j => matGet_identity _⟩
  case ms45 => exact ⟨rfl, otherGroups_setGroup s g _, fun i j _ _ => matGet_ms45 i j⟩

/-! MX_WRITE, MX_ANG and MX_SIGNS (R163-R165). -/

/-- A group of n members has n(n−1)/2 angles, and n(n−1) is even. -/
theorem lt_angleCount_iff (n k : Nat) : k < n * (n - 1) / 2 ↔ 2 * k < n * (n - 1) := by
  obtain ⟨p, hp⟩ := Nat.even_mul_pred_self n
  omega

/-- The sign bits of n members are a number below 2^n. -/
theorem signs_lt_iff (sg : BitVec 8) (n : Nat) : sg.toNat < 2 ^ n ↔ ∀ b, n ≤ b → sg.getLsbD b = false :=
  ⟨fun h b hb => Nat.testBit_lt_two_pow (lt_of_lt_of_le h (Nat.pow_le_pow_right (by decide) hb)),
    Nat.lt_pow_two_of_testBit sg.toNat⟩

section

variable {s : State} {g : BitVec 3} (hr : Spec.Ready s) (hset : (s.group g).size ≠ 0)

include hr hset

theorem mxWrite_check (i j : BitVec 3) :
    (i.toNat < (s.group g).count ∧ j.toNat < (s.group g).count →
      exec (.mxWrite g i j) s = .next (Spec.finished (s.setGroup g
        { s.group g with mat := matSet (s.group g).mat i.toNat j.toNat s.arg0 }))) ∧
    (¬(i.toNat < (s.group g).count ∧ j.toNat < (s.group g).count) →
      exec (.mxWrite g i j) s = .next (Spec.raised s 4 3)) := by
  rw [exec, execMxWrite, runConfigured_of_group hset]
  refine runConfigured_check hr ?_
  simp only [Bool.or_eq_true, decide_eq_true_eq]
  omega

theorem mxAng_check (k : BitVec 5) (a : BitVec 6) :
    (2 * k.toNat < (s.group g).count * ((s.group g).count - 1) →
      exec (.mxAng g k a) s = .next (Spec.finished (s.setGroup g
        { s.group g with ang := (s.group g).ang.setIfInBounds k.toNat a }))) ∧
    (¬2 * k.toNat < (s.group g).count * ((s.group g).count - 1) →
      exec (.mxAng g k a) s = .next (Spec.raised s 4 3)) := by
  rw [exec, execMxAng, runConfigured_of_group hset]
  refine runConfigured_check hr ?_
  rw [← lt_angleCount_iff, Nat.not_lt]

theorem mxSigns_check (sg : BitVec 8) :
    ((∀ b, (s.group g).count ≤ b → sg.getLsbD b = false) →
      exec (.mxSigns g sg) s = .next (Spec.finished (s.setGroup g { s.group g with sgn := sg }))) ∧
    (¬(∀ b, (s.group g).count ≤ b → sg.getLsbD b = false) →
      exec (.mxSigns g sg) s = .next (Spec.raised s 4 3)) := by
  rw [exec, execMxSigns, runConfigured_of_group hset]
  refine runConfigured_check hr ?_
  rw [← signs_lt_iff, Nat.not_lt]

theorem mxWrite_stores {i j : BitVec 3} (hi : i.toNat < (s.group g).count) (hj : j.toNat < (s.group g).count) :
    ∃ u, exec (.mxWrite g i j) s = .next u ∧ u = Spec.finished { s with grp := u.grp } ∧
      u.group g = { s.group g with mat := (u.group g).mat } ∧ Spec.OtherGroups s u g ∧
      matGet (u.group g).mat i.toNat j.toNat = s.arg0 ∧
      ∀ x y, x ≠ i.toNat ∨ y ≠ j.toNat → matGet (u.group g).mat x y = matGet (s.group g).mat x y := by
  refine ⟨_, (mxWrite_check hr hset i j).1 ⟨hi, hj⟩, rfl, ?_⟩
  rw [group_finished_setGroup]
  have hmat := matGet_matSet (s.group g).mat s.arg0 i.isLt j.isLt
  exact ⟨rfl, otherGroups_setGroup s g _, (hmat _ _).trans (if_pos ⟨rfl, rfl⟩),
    fun x y hxy => (hmat x y).trans (if_neg (by omega))⟩

theorem mxAng_stores {k : BitVec 5} (a : BitVec 6) (hle : (s.group g).count ≤ 8)
    (hk : 2 * k.toNat < (s.group g).count * ((s.group g).count - 1)) :
    ∃ u, exec (.mxAng g k a) s = .next u ∧ u = Spec.finished { s with grp := u.grp } ∧
      u.group g = { s.group g with ang := (u.group g).ang } ∧ Spec.OtherGroups s u g ∧
      (u.group g).ang.getD k.toNat 0 = a ∧
      ∀ x, x ≠ k.toNat → (u.group g).ang.getD x 0 = (s.group g).ang.getD x 0 := by
  refine ⟨_, (mxAng_check hr hset k a).1 hk, rfl, ?_⟩
  rw [group_finished_setGroup]
  have hmax : (s.group g).count * ((s.group g).count - 1) ≤ 8 * (8 - 1) :=
    Nat.mul_le_mul hle (Nat.sub_le_sub_right hle 1)
  have hang := getD_setIfInBounds (s.group g).ang (show k.toNat < 28 by omega) a 0
  exact ⟨rfl, otherGroups_setGroup s g _, (hang _).trans (if_pos rfl), fun x hx => (hang x).trans (if_neg hx)⟩

theorem mxSigns_stores {sg : BitVec 8} (hsg : ∀ b, (s.group g).count ≤ b → sg.getLsbD b = false) :
    ∃ u, exec (.mxSigns g sg) s = .next u ∧ u = Spec.finished { s with grp := u.grp } ∧
      u.group g = { s.group g with sgn := sg } ∧ Spec.OtherGroups s u g :=
  ⟨_, (mxSigns_check hr hset sg).1 hsg, rfl, group_finished_setGroup s g _, otherGroups_setGroup s g _⟩

end

/-- Settles O41, command by command. -/
theorem matrixOperandsStore : Obligations.MatrixOperandsStore := by
  unfold Obligations.MatrixOperandsStore
  refine ⟨fun g i j k a sg => ⟨decode_mxWrite g i j, decode_mxAng g k a, decode_mxSigns g sg⟩,
    fun s g i j k a sg hr h0 => ⟨exec_unset_group hr rfl h0, exec_unset_group hr rfl h0, exec_unset_group hr rfl h0⟩,
    fun s g i j k a sg hr hset hle => ⟨mxWrite_stores hr hset, fun hout => ?_, mxAng_stores hr hset a hle,
      fun hout => (mxAng_check hr hset k a).2 (by omega), mxSigns_stores hr hset, fun ⟨b, hb, hbit⟩ => ?_⟩⟩
  · exact (mxWrite_check hr hset i j).2 (by omega)
  · exact (mxSigns_check hr hset sg).2 fun h => absurd (h b hb) (by rw [hbit]; decide)

end Sys2Proof.Machine
end

section
/-! SUPPORT. MX_APPLY as a whole next state (R167, R168): what one band leaves of the members' coefficients, then all
bands in turn. -/

namespace Sys2Proof.Machine

/-! One band's output (R167). -/

theorem mixAt_eq_mixSum (m : Memory) (r : Group) (j y : Nat) : mixAt m r j y = Spec.mixSum m r j y r.count := by
  have key (n : Nat) : (List.range n).foldl
      (fun sum k => fadd sum (fmul (coef m (r.member k) y) (matGet r.mat j k))) 0 = Spec.mixSum m r j y n := by
    induction n with
    | zero => rfl
    | succ n ih => rw [List.range_succ, List.foldl_append, List.foldl_cons, List.foldl_nil, ih, Spec.mixSum]
  exact key r.count

theorem mixSum_congr {m m' : Memory} {r : Group} {y : Nat} (j : Nat) : ∀ n,
    (∀ k, k < n → coef m' (r.member k) y = coef m (r.member k) y) → Spec.mixSum m' r j y n = Spec.mixSum m r j y n
  | 0, _ => rfl
  | n + 1, h => by rw [Spec.mixSum, Spec.mixSum, mixSum_congr j n fun k hk => h k (by omega), h n (by omega)]

/-- The output at a position reads the members' coefficients at that position only. -/
theorem mixedCoef_congr {m m' : Memory} {r : Group} {y : Nat}
    (h : ∀ k, k < r.count → coef m' (r.member k) y = coef m (r.member k) y) (b : Nat) {j : Nat} (hj : j < r.count) :
    Spec.mixedCoef m' r b j y = Spec.mixedCoef m r b j y := by
  rw [Spec.mixedCoef, Spec.mixedCoef, mixSum_congr j r.count h, h j hj]

/-- The coefficients after one channel's positions lo..hi−1 are written. -/
theorem coef_writeRange (m : Memory) (c : Nat) {lo hi : Nat} (f : Nat → F32) (c' : Nat) {y : Nat}
    (hlo : lo ≤ hi) (hhi : hi ≤ 4096) (hy : y < 4096) :
    coef (writeWords m (coefAddr c lo) ((List.range' lo (hi - lo)).map f)) c' y =
      if c' = c ∧ lo ≤ y ∧ y < hi then f y else coef m c' y := by
  rw [coef_writeWords _ _ _ _ _ _ (by simp; omega) hy, List.length_map, List.length_range',
    Nat.add_sub_cancel' hlo]
  split
  next h =>
    obtain ⟨-, hstart, hend⟩ := h
    rw [List.getD_eq_getElem _ _ (by simp; omega), List.getElem_map, List.getElem_range', Nat.one_mul,
      Nat.add_sub_cancel' hstart]
  next => rfl

section

variable {nch : Nat} {r : Group} (hr : GroupOk nch r)

include hr

theorem GroupOk.member_inj {j k : Nat} (hj : j < r.count) (hk : k < r.count) : r.member j = r.member k ↔ j = k := by
  obtain ⟨-, -, -, hinj, -⟩ := hr
  exact ⟨hinj j k hj hk, fun h => by rw [h]⟩

theorem GroupOk.count_of_offscale (h : r.offscale = true) : r.count = 2 := by
  obtain ⟨-, -, -, -, hoff, -⟩ := hr
  exact hoff h

/-- The members are distinct channels, so each is written once, with values computed before any write (R168, L2). -/
theorem GroupOk.coef_mixBand (m : Memory) {lo hi j y : Nat} (hlo : lo ≤ hi) (hhi : hi ≤ 4096) (hy : y < 4096)
    (hj : j < r.count) : coef (mixBand m r lo hi) (r.member j) y =
      if lo ≤ y ∧ y < hi then Spec.mixSum m r j y r.count else coef m (r.member j) y := by
  have key : ∀ n, n ≤ r.count → coef ((List.range n).foldl (fun acc j => writeWords acc (coefAddr (r.member j) lo)
      ((List.range' lo (hi - lo)).map (mixAt m r j))) m) (r.member j) y =
      if j < n ∧ lo ≤ y ∧ y < hi then mixAt m r j y else coef m (r.member j) y := by
    intro n hn
    induction n with
    | zero => simp
    | succ n ih =>
      rw [List.range_succ, List.foldl_append, List.foldl_cons, List.foldl_nil,
        coef_writeRange _ _ _ _ hlo hhi hy, ih (by omega)]
      simp only [hr.member_inj hj (show n < r.count by omega)]
      rcases Nat.lt_trichotomy j n with h | rfl | h
      · simp [h, h.ne, Nat.lt_succ_of_lt h]
      · simp
      · simp [h.ne', h.not_gt, show ¬j < n + 1 by omega]
  rw [← mixAt_eq_mixSum, mixBand, key r.count le_rfl]
  simp only [hj, true_and]

theorem GroupOk.coef_rescaleBand (m : Memory) {lo hi j y : Nat} (hhi : hi ≤ 4096) (hy : y < 4096) (hcount : r.count = 2)
    (hj : j < r.count) : coef (rescaleBand m r lo hi) (r.member j) y =
      if lo ≤ y ∧ y < hi then fmul (coef m (r.member j) y) 0x3FB50000#32 else coef m (r.member j) y := by
  have hinj (k l : Nat) (hk : k < 2) (hl : l < 2) := hr.member_inj (hcount ▸ hk) (hcount ▸ hl)
  rw [hcount] at hj
  rw [rescaleBand, coef_mapCoef _ _ _ _ _ _ _ hhi hy, coef_mapCoef _ _ _ _ _ _ _ hhi hy,
    coef_mapCoef _ _ _ _ _ _ _ hhi hy]
  simp only [hinj j 0 hj (by decide), hinj j 1 hj (by decide), hinj 1 0 (by decide) (by decide)]
  obtain rfl | rfl : j = 0 ∨ j = 1 := by omega
  · simp [offscaleK]
  · simp [offscaleK]

/-- One band of MX_APPLY: inside it the output of R167, outside it no change. -/
theorem GroupOk.coef_applyBand (s : State) (m : Memory) {b j y : Nat} (hlo : s.bound b ≤ s.bound (b + 1))
    (hhi : s.bound (b + 1) ≤ 4096) (hy : y < 4096) (hj : j < r.count) :
    coef (applyBand s r m b) (r.member j) y =
      if s.bound b ≤ y ∧ y < s.bound (b + 1) then Spec.mixedCoef m r b j y else coef m (r.member j) y := by
  unfold applyBand Spec.mixedCoef
  by_cases hmask : r.mask.getLsbD b = true
  · simp only [if_pos hmask]
    exact hr.coef_mixBand m hlo hhi hy hj
  · by_cases hoff : r.offscale = true
    · simp only [if_neg hmask, if_pos hoff]
      exact hr.coef_rescaleBand m hhi hy (hr.count_of_offscale hoff) hj
    · simp only [if_neg hmask, if_neg hoff, ite_self]

/-- One band of MX_APPLY writes the members' positions of the band, if any. -/
theorem GroupOk.edited_applyBand {R : Nat → Nat → Prop} {m m' : Memory} (hm : Edited R m m') (s : State) {b : Nat}
    (hrange : ∀ k, k < r.count →
      R (coefAddr (r.member k) (s.bound b)) (4 * (s.bound (b + 1) - s.bound b))) :
    Edited R m (applyBand s r m' b) := by
  unfold applyBand
  split
  next =>
    refine hm.foldl fun j hj m' hm => hm.writeWords ?_
    rw [List.length_map, List.length_range']
    exact hrange j (List.mem_range.1 hj)
  next =>
    split
    next hoff =>
      have hcount := hr.count_of_offscale hoff
      unfold rescaleBand
      exact (hm.mapCoef _ (hrange 0 (by omega))).mapCoef _ (hrange 1 (by omega))
    next => exact hm

end

/-! All bands (R135, R167). -/

theorem bound_mono_of_bandsOk {s : State} (h : Spec.BandsOk s) {b : Nat} : ∀ {n}, b ≤ n → n ≤ s.subNb.toNat →
    s.bound b ≤ s.bound n := by
  obtain ⟨-, hstep, -⟩ := h
  intro n hbn
  induction n, hbn using Nat.le_induction with
  | base => exact fun _ => le_rfl
  | succ n _ ih => exact fun hn => le_trans (ih (by omega)) (hstep n (by omega))

/-- The memory after the first n bands. -/
def applyBands (s : State) (r : Group) (n : Nat) : Memory := (List.range n).foldl (applyBand s r) s.mem

theorem applyBands_succ (s : State) (r : Group) (n : Nat) :
    applyBands s r (n + 1) = applyBand s r (applyBands s r n) n := by
  rw [applyBands, List.range_succ, List.foldl_append, List.foldl_cons, List.foldl_nil, applyBands]

/-- After the first n bands, the positions of each of them hold its output and those past them their first value: a band
reads only positions that no band before it has written. -/
theorem coef_applyBands {s : State} {nch : Nat} {r : Group} (hr : GroupOk nch r) (hc : ConfigInv s)
    (hb : Spec.BandsOk s) : ∀ n, n ≤ s.subNb.toNat → ∀ y j, y < 4096 → j < r.count →
      (∀ b, b < n → s.bound b ≤ y → y < s.bound (b + 1) →
        coef (applyBands s r n) (r.member j) y = Spec.mixedCoef s.mem r b j y) ∧
      (s.bound n ≤ y → coef (applyBands s r n) (r.member j) y = coef s.mem (r.member j) y) := by
  intro n hn
  induction n with
  | zero => exact fun y j _ _ => ⟨fun b hb => absurd hb (Nat.not_lt_zero b), fun _ => rfl⟩
  | succ n ih =>
    intro y j hy hj
    have hband : s.bound n ≤ s.bound (n + 1) := bound_mono_of_bandsOk hb (Nat.le_succ n) hn
    have hbefore := fun k (hk : k < r.count) => ih (by omega) y k hy hk
    obtain ⟨hdone, huntouched⟩ := hbefore j hj
    rw [applyBands_succ, hr.coef_applyBand s _ hband (hc.bound_le _) hy hj]
    refine ⟨fun b hbn hlo hhi => ?_, fun hpast => ?_⟩
    · obtain hlt | rfl := Nat.lt_succ_iff_lt_or_eq.1 hbn
      · have := bound_mono_of_bandsOk hb (show b + 1 ≤ n from hlt) (by omega)
        rw [if_neg (by omega)]
        exact hdone b hlt hlo hhi
      · rw [if_pos ⟨hlo, hhi⟩]
        exact mixedCoef_congr (fun k hk => (hbefore k hk).2 hlo) b hj
    · rw [if_neg (by omega)]
      exact huntouched (by omega)

/-- Only the members' positions below SFB[SUB_NB] are written. -/
theorem readByte_applyBands {s : State} {nch : Nat} {r : Group} (hr : GroupOk nch r) (hb : Spec.BandsOk s) {a : Nat}
    (ha : ∀ j, j < r.count → a < coefAddr (r.member j) 0 ∨ coefAddr (r.member j) (s.bound s.subNb.toNat) ≤ a) :
    readByte (applyBands s r s.subNb.toNat) a = readByte s.mem a := by
  have hedit : Edited (fun x l => ∃ j, j < r.count ∧ coefAddr (r.member j) 0 ≤ x ∧
      x + l ≤ coefAddr (r.member j) (s.bound s.subNb.toNat)) s.mem (applyBands s r s.subNb.toNat) := by
    refine Edited.refl.foldl fun b hbn m hm => hr.edited_applyBand hm s fun k hk => ⟨k, hk, ?_⟩
    have hlt := List.mem_range.1 hbn
    have hband : s.bound b ≤ s.bound (b + 1) := bound_mono_of_bandsOk hb (Nat.le_succ b) hlt
    have htop : s.bound (b + 1) ≤ _ := bound_mono_of_bandsOk hb hlt le_rfl
    unfold coefAddr
    omega
  refine hedit.readByte_eq ?_
  rintro x l ⟨j, hj, hlo, hhi⟩ hx
  have := ha j hj
  omega

/-! The checks (R135, R159). -/

theorem mxApply_checks {s : State} {g : BitVec 3} (hr : Spec.Ready s) (hset : (s.group g).size ≠ 0) :
    (s.subValid = false → exec (.mxApply g) s = .next (Spec.raised s 6 2)) ∧
    (s.subValid = true → ¬Spec.BandsOk s → exec (.mxApply g) s = .next (Spec.raised s 3 2)) ∧
    (s.subValid = true → Spec.BandsOk s → exec (.mxApply g) s = .next (Spec.finished
      { s with mem := applyBands s (s.group g) s.subNb.toNat })) := by
  rw [exec, execMxApply, runConfigured_of_group hset]
  have hbands : (!s.sfbOk) = true ↔ ¬Spec.BandsOk s := by
    rw [Bool.not_eq_true', ← Bool.not_eq_true, State.sfbOk_iff, Spec.BandsOk]
  refine ⟨fun hv => ?_, fun hv => ?_, fun hv => ?_⟩
  · rw [if_pos (by simp [hv])]
    exact runConfigured_error hr _
  · rw [if_neg (by simp [hv])]
    exact (runConfigured_check hr hbands).2
  · rw [if_neg (by simp [hv])]
    exact (runConfigured_check hr hbands).1

/-- Settles O43: the members' coefficients by `coef_applyBands`, the other bytes by `readByte_applyBands`. -/
theorem mxApplyMixesEveryBand : Obligations.MxApplyMixesEveryBand := by
  unfold Obligations.MxApplyMixesEveryBand
  refine ⟨fun g => decode_match_add (i := .mxApply g) rfl, fun s g hr => ⟨exec_unset_group hr rfl,
    fun hset => (mxApply_checks hr hset).1, fun hset => (mxApply_checks hr hset).2.1,
    fun hc hg hset hv hb => ?_⟩⟩
  obtain ⟨-, -, hrun⟩ := mxApply_checks hr hset
  obtain ⟨-, hgrp⟩ := hg
  refine ⟨_, hrun hv hb, rfl, fun b hbn y hlo hhi j hj => ?_, fun a ha => readByte_applyBands (hgrp g) hb ha⟩
  obtain ⟨hmixed, -⟩ := coef_applyBands (hgrp g) hc hb _ le_rfl y j (lt_of_lt_of_le hhi (hc.bound_le _)) hj
  exact hmixed b hbn hlo hhi

end Sys2Proof.Machine
end

section
/-! SUPPORT. DEQUANT as a whole next state (R180): what one band leaves of the channel's coefficients, then all bands in
turn, then the zeroed rest of the block. -/

namespace Sys2Proof.Machine

/-! The bands (R180). -/

theorem coef_dequantBand {s : State} (hi : ConfigInv s) (c : BitVec 3) (m : Memory) (b : Nat) {y : Nat} (hy : y < 4096) :
    coef (dequantBand s c m b) c.toNat y =
      if s.bound b ≤ y ∧ y < s.bound (b + 1) then fmul (coef m c.toNat y) (gain (Spec.bandExponent s c b))
      else coef m c.toNat y := by
  rw [dequantBand, coef_mapCoef _ _ _ _ _ _ _ (hi.bound_le _) hy]
  simp only [true_and]
  rfl

/-- The memory after the first n bands. -/
def dequantBands (s : State) (c : BitVec 3) (n : Nat) : Memory := (List.range n).foldl (dequantBand s c) s.mem

theorem dequantBands_succ (s : State) (c : BitVec 3) (n : Nat) :
    dequantBands s c (n + 1) = dequantBand s c (dequantBands s c n) n := by
  rw [dequantBands, List.range_succ, List.foldl_append, List.foldl_cons, List.foldl_nil, dequantBands]

/-- Each of the first n bands is scaled by its gain once, and the positions past them keep their first value. -/
theorem coef_dequantBands {s : State} (hi : ConfigInv s) (hb : Spec.BandsOk s) (c : BitVec 3) {y : Nat} (hy : y < 4096) :
    ∀ n, n ≤ s.subNb.toNat →
      (∀ b, b < n → s.bound b ≤ y → y < s.bound (b + 1) → coef (dequantBands s c n) c.toNat y =
        fmul (coef s.mem c.toNat y) (gain (Spec.bandExponent s c b))) ∧
      (s.bound n ≤ y → coef (dequantBands s c n) c.toNat y = coef s.mem c.toNat y) := by
  intro n hn
  induction n with
  | zero => exact ⟨fun b hb => absurd hb (Nat.not_lt_zero b), fun _ => rfl⟩
  | succ n ih =>
    obtain ⟨hdone, huntouched⟩ := ih (by omega)
    have hband : s.bound n ≤ s.bound (n + 1) := bound_mono_of_bandsOk hb (Nat.le_succ n) hn
    rw [dequantBands_succ, coef_dequantBand hi c _ _ hy]
    refine ⟨fun b hbn hlo hhi => ?_, fun hpast => ?_⟩
    · obtain hlt | rfl := Nat.lt_succ_iff_lt_or_eq.1 hbn
      · have hbelow : s.bound (b + 1) ≤ s.bound n := bound_mono_of_bandsOk hb hlt (by omega)
        rw [if_neg (by omega)]
        exact hdone b hlt hlo hhi
      · rw [if_pos ⟨hlo, hhi⟩, huntouched hlo]
    · rw [if_neg (by omega)]
      exact huntouched (by omega)

/-! The whole block (R180). -/

/-- The memory that DEQUANT c leaves: the bands scaled, then +0.0 up to the end of the block. -/
def dequantized (s : State) (c : BitVec 3) : Memory :=
  eraseBytes (dequantBands s c s.subNb.toNat) (coefAddr c.toNat (s.bound s.subNb.toNat))
    (4 * (s.subN.toNat - s.bound s.subNb.toNat))

theorem coef_dequantized (s : State) (c : BitVec 3) (hn : s.subN.toNat ≤ 4096) (hb : Spec.BandsOk s) {y : Nat}
    (hy : y < s.subN.toNat) : coef (dequantized s c) c.toNat y =
      if s.bound s.subNb.toNat ≤ y then 0 else coef (dequantBands s c s.subNb.toNat) c.toNat y := by
  obtain ⟨-, -, htop⟩ := hb
  rw [dequantized, coef_eraseBytes _ _ _ _ _ _ (by omega) (by omega), Nat.add_sub_cancel' htop]
  simp only [true_and, hy, and_true]

/-- Only the positions 0..SUB_N−1 of the channel are written. -/
theorem readByte_dequantized {s : State} (c : BitVec 3) (hb : Spec.BandsOk s) {a : Nat}
    (ha : a < coefAddr c.toNat 0 ∨ coefAddr c.toNat s.subN.toNat ≤ a) :
    readByte (dequantized s c) a = readByte s.mem a := by
  obtain ⟨-, -, htop⟩ := id hb
  have hbands : Edited (fun x l => coefAddr c.toNat 0 ≤ x ∧ x + l ≤ coefAddr c.toNat s.subN.toNat) s.mem
      (dequantBands s c s.subNb.toNat) := by
    refine Edited.refl.foldl fun b hbn m hm => ?_
    have hlt := List.mem_range.1 hbn
    have hband : s.bound b ≤ s.bound (b + 1) := bound_mono_of_bandsOk hb (Nat.le_succ b) hlt
    have hlast : s.bound (b + 1) ≤ s.bound s.subNb.toNat := bound_mono_of_bandsOk hb hlt le_rfl
    unfold dequantBand
    refine hm.mapCoef _ ?_
    unfold coefAddr
    omega
  refine (hbands.erase ?_).readByte_eq ?_
  · unfold coefAddr
    omega
  rintro x l ⟨hlo, hhi⟩ hx
  omega

/-! The checks (R130, R135, R180). -/

theorem bandsOk_iff (s : State) : Spec.BandsOk s ↔ s.sfbOk = true := s.sfbOk_iff.symm

theorem dequant_checks {s : State} {c : BitVec 3} (hr : Spec.Ready s) (hc : c.toNat < s.cfgNch.toNat) :
    (s.subValid = false → exec (.dequant c) s = .next (Spec.raised s 6 2)) ∧
    (s.subValid = true → ¬Spec.BandsOk s → exec (.dequant c) s = .next (Spec.raised s 3 2)) ∧
    (s.subValid = true → Spec.BandsOk s → s.quantStep c < 0 → exec (.dequant c) s = .next (Spec.raised s 3 3)) ∧
    (s.subValid = true → Spec.BandsOk s → 0 ≤ s.quantStep c →
      exec (.dequant c) s = .next (Spec.finished { s with mem := dequantized s c })) := by
  rw [exec, execDequant, runConfigured_of_channel hc]
  simp only [bandsOk_iff]
  refine ⟨fun hv => ?_, fun hv hb => ?_, fun hv hb hq => ?_, fun hv hb hq => ?_⟩
  · rw [if_pos (by simp [hv])]
    exact runConfigured_error hr _
  · rw [if_neg (by simp [hv]), if_pos (by simp [hb])]
    exact runConfigured_error hr _
  · rw [if_neg (by simp [hv]), if_neg (by simp [hb]), if_pos hq]
    exact runConfigured_error hr _
  · rw [if_neg (by simp [hv]), if_neg (by simp [hb]), if_neg hq.not_gt]
    exact runConfigured_ok hr _

/-- Settles O44: the coefficients by `coef_dequantBands` and `coef_dequantized`, the other bytes by
`readByte_dequantized`. -/
theorem dequantScalesEveryBand : Obligations.DequantScalesEveryBand := by
  unfold Obligations.DequantScalesEveryBand
  refine ⟨fun c => decode_match_add (i := .dequant c) rfl, fun s c hr => ⟨exec_missing_channel hr rfl,
    fun hc => have ⟨hsub, _⟩ := dequant_checks hr hc; hsub,
    fun hc => have ⟨_, hbands, _⟩ := dequant_checks hr hc; hbands,
    fun hc => have ⟨_, _, hstep, _⟩ := dequant_checks hr hc; hstep, fun hi hc hv hb hq => ?_⟩⟩
  obtain ⟨-, -, -, hrun⟩ := dequant_checks hr hc
  obtain ⟨-, hoff, hspf, -, -⟩ := block_bounds hi hr hv c
  obtain ⟨-, -, htop⟩ := id hb
  have hn : s.subN.toNat ≤ 4096 := by omega
  refine ⟨_, hrun hv hb hq, rfl, fun b hbn y hlo hhi => ?band, fun y hlo hhi => ?rest,
    fun a ha => readByte_dequantized c hb ha⟩
  case band =>
    have hbelow : s.bound (b + 1) ≤ s.bound s.subNb.toNat := bound_mono_of_bandsOk hb hbn le_rfl
    obtain ⟨hscaled, -⟩ := coef_dequantBands hi hb c (show y < 4096 by omega) _ le_rfl
    exact (coef_dequantized s c hn hb (by omega)).trans ((if_neg (by omega)).trans (hscaled b hbn hlo hhi))
  case rest => exact (coef_dequantized s c hn hb hhi).trans (if_pos hlo)

end Sys2Proof.Machine
end

section
/-! SUPPORT. Silence through the core (R181, R204): the arithmetic keeps ±0, so DEQUANT, WINDOW and OUT_EMIT do. -/

namespace Sys2Proof.Machine

/-! Arithmetic on ±0 (R10). -/

theorem finite_of_zero {x : F32} (h : Spec.Zero x) : Spec.Finite x := by
  unfold Spec.Finite
  rcases h with rfl | rfl <;> decide

theorem zero_withSign (neg : Bool) : Spec.Zero (withSign neg 0) := by
  cases neg
  · exact .inl rfl
  · exact .inr rfl

theorem zero_fmul {x g : F32} (hx : Spec.Zero x) (hg : Spec.Finite g) : Spec.Zero (fmul x g) := by
  have hround : roundMag 0 149 = 0 := by decide
  rw [fmul_finite (finite_of_zero hx) hg, (mag_eq_zero_iff x).2 hx, Nat.zero_mul, hround]
  exact zero_withSign _

theorem zero_fneg {x : F32} (hx : Spec.Zero x) : Spec.Zero (fneg x) := by
  rcases hx with rfl | rfl
  · exact .inr rfl
  · exact .inl rfl

theorem toUnits_of_zero {x : F32} (hx : Spec.Zero x) : toUnits x = 0 := by
  simp [toUnits, (mag_eq_zero_iff x).2 hx]

theorem zero_fadd {x y : F32} (hx : Spec.Zero x) (hy : Spec.Zero y) : Spec.Zero (fadd x y) := by
  rw [fadd_finite (finite_of_zero hx) (finite_of_zero hy), toUnits_of_zero hx, toUnits_of_zero hy,
    Int.add_zero, if_pos rfl]
  exact zero_withSign _

theorem zero_fsub {x y : F32} (hx : Spec.Zero x) (hy : Spec.Zero y) : Spec.Zero (fsub x y) := zero_fadd hx (zero_fneg hy)

theorem clip16_of_zero {x : F32} (hx : Spec.Zero x) : clip16 x = 0 := by
  rcases hx with rfl | rfl <;> decide

/-! DEQUANT (R181). -/

/-- The bands cover the positions below SFB[n]: each position lies in one of the first n. -/
theorem exists_band {s : State} (h0 : s.bound 0 = 0) {n y : Nat} (hy : y < s.bound n) :
    ∃ b, b < n ∧ s.bound b ≤ y ∧ y < s.bound (b + 1) := by
  induction n with
  | zero => omega
  | succ n ih =>
    rcases Nat.lt_or_ge y (s.bound n) with h | h
    · obtain ⟨b, hb, hin⟩ := ih h
      exact ⟨b, Nat.lt_succ_of_lt hb, hin⟩
    · exact ⟨n, Nat.lt_succ_self n, h, hy⟩

theorem dequant_silent {s : State} {c : BitVec 3} (hr : Spec.Ready s) (hi : ConfigInv s) (hc : c.toNat < s.cfgNch.toNat)
    (hv : s.subValid = true) (hb : Spec.BandsOk s) (hq : 0 ≤ s.qstep.toInt + (s.channel c).qmod.toInt)
    (hg : ∀ b, b < s.subNb.toNat → Spec.Finite (gain (Spec.bandExponent s c b)))
    (hz : ∀ y, y < s.subN.toNat → Spec.Zero (coef s.mem c.toNat y)) :
    ∃ u, exec (.dequant c) s = .next u ∧ ∀ y, y < s.subN.toNat → Spec.Zero (coef u.mem c.toNat y) := by
  obtain ⟨-, hspec⟩ := dequantScalesEveryBand
  obtain ⟨-, -, -, -, hok⟩ := hspec s c hr
  obtain ⟨u, hu, -, hband, hrest, -⟩ := hok hi hc hv hb hq
  refine ⟨u, hu, fun y hy => ?_⟩
  rcases Nat.lt_or_ge y (s.bound s.subNb.toNat) with h | h
  · obtain ⟨h0, -⟩ := hb
    obtain ⟨b, hbn, hlo, hhi⟩ := exists_band h0 h
    rw [hband b hbn y hlo hhi]
    exact zero_fmul (hz y hy) (hg b hbn)
  · exact .inl (hrest y h hy)

/-! WINDOW (R204). -/

/-- The window of every legal block length is finite (R11). -/
theorem finite_win {w n : Nat} (hpow : isPow2 w = true) (hlo : 128 ≤ w) (hhi : w ≤ 4096) (hn : n < w) :
    Spec.Finite (win w n) := by
  obtain ⟨j, rfl⟩ := (isPow2_iff w).1 hpow
  have h7 : 7 ≤ j := (Nat.pow_le_pow_iff_right (a := 2) (by decide)).1 hlo
  have h12 : j ≤ 12 := (Nat.pow_le_pow_iff_right (a := 2) (by decide)).1 hhi
  obtain ⟨k, rfl⟩ := Nat.exists_eq_add_of_le h7
  rw [Nat.pow_add] at hn ⊢
  exact (win_roundsReal (show k ≤ 5 by omega) hn).1

/-- The overlap W = min(PREV_LEN[c], SUB_N) is a legal block length (R200). -/
theorem overlap_legal {s : State} (hi : ConfigInv s) (hr : Spec.Ready s) (hv : s.subValid = true) (c : BitVec 3) :
    let w := min (s.channel c).prevLen.toNat s.subN.toNat
    isPow2 w = true ∧ 128 ≤ w ∧ w ≤ 4096 := by
  obtain ⟨hn, hoff, hspf, hp, hp'⟩ := block_bounds hi hr hv c
  obtain ⟨hpowPrev, -, -⟩ := hi.prevLenOk hr.2 c
  obtain ⟨hpowSub, -, -⟩ := hi.prevLenOk_subN hr.2 hv c
  refine ⟨?_, by omega, by omega⟩
  rcases min_choice (s.channel c).prevLen.toNat s.subN.toNat with h | h
  · rwa [h]
  · rwa [h]

theorem window_silent {s : State} {c : BitVec 3} (hr : Spec.Ready s) (hi : ConfigInv s) (hc : c.toNat < s.cfgNch.toNat)
    (hv : s.subValid = true) (hz : ∀ i, i < 6144 → Spec.Zero (pcm s.mem c.toNat i)) :
    ∃ u, exec (.window c) s = .next u ∧ ∀ i, i < 6144 → Spec.Zero (pcm u.mem c.toNat i) := by
  obtain ⟨-, -, hspec⟩ := windowCrossFades
  obtain ⟨-, -, hok⟩ := hspec s c hr
  obtain ⟨hpow, hlo, hhi⟩ := overlap_legal hi hr hv c
  obtain ⟨-, -, hspf, -, -⟩ := block_bounds hi hr hv c
  obtain ⟨-, -, hend, u, hu, -, -, -, hfade, hframe⟩ := hok hi hc hv
  refine ⟨u, hu, fun i hlt => ?_⟩
  generalize min (s.channel c).prevLen.toNat s.subN.toNat = w at *
  generalize s.cfgSpf.toNat / 2 + s.subOff.toNat - w / 2 = start at *
  have hwin (n : Nat) (hn : n < w) : Spec.Finite (win w n) := finite_win hpow hlo hhi hn
  have hfaded (k : Nat) (hk : k < w / 2) : Spec.Zero (pcm u.mem c.toNat (start + k)) ∧
      Spec.Zero (pcm u.mem c.toNat (start + 2 * (w / 2) - 1 - k)) := by
    obtain ⟨hhead, htail⟩ := hfade k hk
    have ha := hz (start + k) (by omega)
    have hb := hz (start + 2 * (w / 2) - 1 - k) (by omega)
    have hk₁ := hwin k (by omega)
    have hk₂ := hwin (2 * (w / 2) - 1 - k) (by omega)
    rw [hhead, htail]
    exact ⟨zero_fsub (zero_fmul ha hk₂) (zero_fmul hb hk₁), zero_fadd (zero_fmul ha hk₁) (zero_fmul hb hk₂)⟩
  by_cases hin : start ≤ i ∧ i < start + 2 * (w / 2)
  · rcases Nat.lt_or_ge i (start + w / 2) with h | h
    · have hhead := (hfaded (i - start) (by omega)).1
      rwa [Nat.add_sub_cancel' hin.1] at hhead
    · have htail := (hfaded (start + 2 * (w / 2) - 1 - i) (by omega)).2
      rwa [Nat.sub_sub_self (by omega)] at htail
  · have hsame : pcm u.mem c.toNat i = pcm s.mem c.toNat i :=
      readWord_congr fun k hk => hframe _ (by unfold pcmAddr; omega)
    rw [hsame]
    exact hz i hlt

/-! OUT_EMIT (R204). -/

/-- Six nibbles that take all the values 0..5 take no other. -/
theorem nibble_lt_of_isRemap {x : Word} (h : isRemap x = true) {j : Nat} (hj : j < 6) : nibble x j < 6 := by
  have hsub : Finset.range 6 ⊆ (Finset.range 6).image (nibble x) := by
    intro k hk
    obtain ⟨i, hi, hn⟩ := (isRemap_iff x).1 h k (Finset.mem_range.1 hk)
    exact Finset.mem_image.2 ⟨i, Finset.mem_range.2 hi, hn⟩
  have heq := Finset.eq_of_subset_of_card_le hsub Finset.card_image_le
  have hmem : nibble x j ∈ (Finset.range 6).image (nibble x) := Finset.mem_image_of_mem _ (Finset.mem_range.2 hj)
  rw [← heq] at hmem
  exact Finset.mem_range.1 hmem

/-- Every output slot shows a channel that exists (R203). -/
theorem slotChannel_lt {s : State} (hi : ConfigInv s) {j : Nat} (hj : j < s.cfgNch.toNat) :
    s.slotChannel j < s.cfgNch.toNat := by
  obtain ⟨hremap, -⟩ := hi
  unfold State.slotChannel
  split
  next h => rw [h] at hj ⊢; exact nibble_lt_of_isRemap hremap hj
  next => exact hj

theorem outEmit_silent {s : State} (hr : Spec.Ready s) (hi : ConfigInv s)
    (hz : ∀ d i, d < s.cfgNch.toNat → i < s.cfgSpf.toNat → Spec.Zero (pcm s.mem d i)) :
    ∃ u, exec .outEmit s = .next u ∧ ∀ k, k < s.cfgNch.toNat * s.cfgSpf.toNat → out u.mem k = 0 := by
  obtain ⟨-, hspec⟩ := outEmitEmitsAndShifts
  obtain ⟨u, hu, -, hout, -⟩ := hspec s hr hi
  refine ⟨u, hu, fun k hk => ?_⟩
  have hpos : 0 < s.cfgNch.toNat := Nat.pos_of_mul_pos_right (Nat.zero_lt_of_lt hk)
  have hslot := Nat.mod_lt k hpos
  have hsample : k / s.cfgNch.toNat < s.cfgSpf.toNat := Nat.div_lt_of_lt_mul hk
  have hk' := hout _ _ hsample hslot
  rw [← s.outSample_interleaved hslot, Nat.div_add_mod'] at hk'
  rw [hk']
  exact clip16_of_zero (hz _ _ (slotChannel_lt hi hslot) hsample)

/-- Settles O51, command by command: each statement of what the command writes (O44, O48, O50) applied to zeros. -/
theorem silenceStaysSilent : Obligations.SilenceStaysSilent := by
  unfold Obligations.SilenceStaysSilent
  exact fun s c hr hi hc => ⟨dequant_silent hr hi hc, window_silent hr hi hc, outEmit_silent hr hi⟩

end Sys2Proof.Machine
end

section
/-! SUPPORT. IMDCT after IMDCT (R192): the transform reads COEF and writes one block of PCM, so a second one, on the same
channel or on another, finds the inputs that the first one found. -/

namespace Sys2Proof.Machine

/-! Two lists of words written one after the other. -/

/-- A list of words written a second time changes no byte. -/
theorem readByte_writeWords_twice (m : Memory) (a : Nat) (ws : List Word) (x : Nat) :
    readByte (writeWords (writeWords m a ws) a ws) x = readByte (writeWords m a ws) x := by
  rw [readByte_writeWords]
  split
  next hin => rw [readByte_writeWords, if_pos hin]
  next => rfl

/-- Two lists of words, the one past the end of the other, can be written in either order. -/
theorem readByte_writeWords_comm (m : Memory) {a b : Nat} {ws vs : List Word}
    (h : a + 4 * ws.length ≤ b ∨ b + 4 * vs.length ≤ a) (x : Nat) :
    readByte (writeWords (writeWords m a ws) b vs) x = readByte (writeWords (writeWords m b vs) a ws) x := by
  simp only [readByte_writeWords]
  by_cases ha : a ≤ x ∧ x < a + 4 * ws.length
  · have hb : ¬(b ≤ x ∧ x < b + 4 * vs.length) := by omega
    rw [if_neg hb, if_pos ha, if_pos ha]
  · rw [if_neg ha, if_neg ha]

/-! IMDCT as a whole next state (R190). -/

/-- The samples that IMDCT c writes. -/
def State.transform (s : State) (c : BitVec 3) : List F32 :=
  (List.range s.subN.toNat).map (imdctSample s.subN.toNat (s.coefs c))

/-- The state that a legal IMDCT c leaves. -/
def State.transformed (s : State) (c : BitVec 3) : State :=
  Spec.finished { s with mem := writeWords s.mem (pcmAddr c.toNat s.blockBase) (s.transform c) }

theorem State.transform_length (s : State) (c : BitVec 3) : (s.transform c).length = s.subN.toNat := by
  simp [State.transform]

theorem exec_imdct {s : State} {c : BitVec 3} (hr : Spec.Ready s) (hc : c.toNat < s.cfgNch.toNat)
    (hv : s.subValid = true) : exec (.imdct c) s = .next (s.transformed c) := by
  obtain ⟨-, -, hok⟩ := subframe_checks hr c
    { s with mem := writeWords s.mem (pcmAddr c.toNat s.blockBase) (s.transform c) }
  exact hok hc hv

/-- IMDCT that had no effect of its own, or that passed its checks (R222). -/
theorem exec_imdct_cases {s u : State} {c : BitVec 3} (h : exec (.imdct c) s = .next u) :
    Ended s u ∨ (Spec.Ready s ∧ c.toNat < s.cfgNch.toNat ∧ s.subValid = true ∧ u = s.transformed c) := by
  obtain he | ⟨hconf, hc, hv, herr, hu⟩ := execImdct_cases h
  · exact .inl he
  · exact .inr ⟨⟨herr, hconf⟩, by simpa [State.hasChannel] using hc, hv, hu⟩

/-- No byte below PCM changes. -/
theorem readByte_transformed_below (s : State) (c : BitVec 3) {a : Nat} (ha : a < 0x40000) :
    readByte (s.transformed c).mem a = readByte s.mem a := by
  refine (readByte_writeWords _ _ _ _).trans (if_neg ?_)
  unfold pcmAddr
  omega

/-- The inputs of IMDCT are not among its outputs, on whatever channels (R41, R42). -/
theorem transform_transformed {s : State} (hn : s.subN.toNat ≤ 4096) (c d : BitVec 3) :
    (s.transformed d).transform c = s.transform c := by
  have hcoefs : (s.transformed d).coefs c = s.coefs c := by
    refine List.map_congr_left fun i hi => readWord_congr fun k hk => readByte_transformed_below s d ?_
    have hi' : i < s.subN.toNat := List.mem_range.1 hi
    have hc := c.isLt
    unfold coefAddr
    omega
  change (List.range s.subN.toNat).map (imdctSample s.subN.toNat ((s.transformed d).coefs c)) = _
  rw [hcoefs, State.transform]

/-- The second transform writes the samples that it would have written first. -/
theorem transformed_transformed_mem {s : State} (hn : s.subN.toNat ≤ 4096) (c d : BitVec 3) :
    ((s.transformed c).transformed d).mem = writeWords
      (writeWords s.mem (pcmAddr c.toNat s.blockBase) (s.transform c)) (pcmAddr d.toNat s.blockBase) (s.transform d) := by
  rw [← transform_transformed hn d c]
  rfl

/-- The blocks of two channels are disjoint when they end inside their buffers (R42). -/
theorem block_disjoint {c d : BitVec 3} (h : c ≠ d) {base n : Nat} (hb : base + n ≤ 6144) :
    pcmAddr c.toNat base + 4 * n ≤ pcmAddr d.toNat base ∨ pcmAddr d.toNat base + 4 * n ≤ pcmAddr c.toNat base := by
  have hne : c.toNat ≠ d.toNat := fun he => h (BitVec.eq_of_toNat_eq he)
  unfold pcmAddr
  omega

/-! The laws (R192). -/

/-- Where IMDCT had no effect an error is latched, and the lock drops the next command (R223). -/
theorem Ended.err_ne_zero {s u : State} (h : Ended s u) : u.err ≠ 0 := by
  obtain ⟨he, rfl⟩ | ⟨-, e, rfl⟩ := h
  · exact he
  · cases e <;> simp [errorCode]

/-- L3 of R192, also where the first IMDCT is dropped or raises. -/
theorem imdct_repeats {s u : State} {c : BitVec 3} (hi : ConfigInv s) (h : exec (.imdct c) s = .next u) :
    ∃ v, exec (.imdct c) u = .next v ∧ ∀ a, Spec.SameByte u v a := by
  obtain he | ⟨hr, hc, hv, rfl⟩ := exec_imdct_cases h
  · exact ⟨_, exec_locked he.err_ne_zero (by simp), fun _ => rfl⟩
  · obtain ⟨-, hoff, hspf, -⟩ := block_bounds hi hr hv c
    refine ⟨_, exec_imdct (s := s.transformed c) hr hc hv, fun a => ?_⟩
    rw [Spec.SameByte, transformed_transformed_mem (by omega)]
    exact readByte_writeWords_twice _ _ _ _

/-- L4 of R192: the blocks do not meet, and neither transform reads what the other wrote. -/
theorem imdct_commutes {s : State} {c d : BitVec 3} (hi : ConfigInv s) (hr : Spec.Ready s) (hv : s.subValid = true)
    (hne : c ≠ d) (a : Nat) :
    Spec.SameByte ((s.transformed c).transformed d) ((s.transformed d).transformed c) a := by
  obtain ⟨-, hoff, hspf, -⟩ := block_bounds hi hr hv c
  rw [Spec.SameByte, transformed_transformed_mem (by omega), transformed_transformed_mem (by omega)]
  refine readByte_writeWords_comm _ ?_ a
  rw [State.transform_length, State.transform_length]
  exact block_disjoint hne.symm (by unfold State.blockBase; omega)

/-- Settles O47: L3 by `imdct_repeats`, also where IMDCT has no effect; L4 by `imdct_commutes`. -/
theorem imdctRepeatsAndCommutes : Obligations.ImdctRepeatsAndCommutes := by
  unfold Obligations.ImdctRepeatsAndCommutes
  intro s u c d hi h
  refine ⟨imdct_repeats hi h, fun hne hr hv hc hd => ?_⟩
  obtain rfl : s.transformed c = u := Host.Outcome.next.inj ((exec_imdct hr hc hv).symm.trans h)
  exact ⟨_, _, _, exec_imdct (s := s.transformed c) hr hd hv, exec_imdct hr hd hv,
    exec_imdct (s := s.transformed d) hr hc hv, imdct_commutes hi hr hv hne⟩

end Sys2Proof.Machine
end

section
/-! SUPPORT. PCM_ZERO as a whole next state (R201), and the rounding of a sample to 16 bits (R202). -/

namespace Sys2Proof.Machine

/-! PCM_ZERO (R201). -/

/-- The memory that a legal PCM_ZERO c leaves. -/
def State.pcmZeroed (s : State) (c : BitVec 3) : Memory :=
  eraseBytes s.mem (pcmAddr c.toNat (s.cfgSpf.toNat / 2 + s.arg0.toNat)) (4 * s.arg1.toNat)

/-- On a channel that exists the range's end is the one check left. -/
theorem pcmZero_check {s : State} {c : BitVec 3} (hr : Spec.Ready s) (hc : c.toNat < s.cfgNch.toNat) :
    (s.arg0.toNat + s.arg1.toNat ≤ s.cfgSpf.toNat →
      exec (.pcmZero c) s = .next (Spec.finished { s with mem := s.pcmZeroed c })) ∧
    (¬s.arg0.toNat + s.arg1.toNat ≤ s.cfgSpf.toNat → exec (.pcmZero c) s = .next (Spec.raised s 4 3)) := by
  rw [exec, execPcmZero, runConfigured_of_channel hc]
  exact runConfigured_check hr Nat.not_le.symm

/-- The erased samples read +0.0, whether or not they end inside the channel's buffer. -/
theorem pcm_eraseBytes_inside (m : Memory) (c lo : Nat) {n t : Nat} (ht : t < n) :
    pcm (eraseBytes m (pcmAddr c lo) (4 * n)) c (lo + t) = 0 := by
  have haddr : pcmAddr c (lo + t) = pcmAddr c lo + 4 * t := by unfold pcmAddr; omega
  rw [pcm, haddr, readWord_eraseBytes _ _ _ _ (by omega), if_pos (by omega)]

/-- Settles O49: the range is checked by `pcmZero_check`; the erased bytes are those of the samples named. -/
theorem pcmZeroClearsTheRange : Obligations.PcmZeroClearsTheRange := by
  unfold Obligations.PcmZeroClearsTheRange
  refine ⟨fun c => decode_match_add (i := .pcmZero c) rfl, fun s c hr => ⟨exec_missing_channel hr rfl,
    fun hc hend => ⟨_, (pcmZero_check hr hc).1 hend, rfl, fun t ht => ?zeros, fun a ha => ?others⟩,
    fun hc hend => (pcmZero_check hr hc).2 (Nat.not_le.2 hend)⟩⟩
  case zeros => exact pcm_eraseBytes_inside _ _ _ ht
  case others =>
    refine (readByte_eraseBytes _ _ _ _).trans (if_neg ?_)
    unfold pcmAddr at *
    omega

/-! clip16 (R202). -/

/-- `nearestInt` is within half of the value, and at a half it is even. -/
theorem nearestInt_spec (x : F32) :
    2 * (nearestInt x * 2 ^ 149 - toUnits x).natAbs ≤ 2 ^ 149 ∧
    (2 * (nearestInt x * 2 ^ 149 - toUnits x).natAbs = 2 ^ 149 → nearestInt x % 2 = 0) := by
  obtain ⟨hlo, hhi, heven⟩ := roundShift_spec (mag x) 149
  unfold nearestInt toUnits
  cases signBit x <;> simp only [Bool.false_eq_true, if_true, if_false] <;> omega

/-- A finite value is clipped after it is rounded. -/
theorem clip16_toInt_of_finite {x : F32} (hx : Spec.Finite x) :
    (clip16 x).toInt = max (-32768) (min 32767 (nearestInt x)) := by
  rw [clip16, isNaN_of_finite hx, isInf_of_finite hx, if_neg Bool.false_ne_true, if_neg Bool.false_ne_true]
  split
  next hhi => rw [min_eq_left hhi.le]; rfl
  next hhi =>
    rw [min_eq_right (not_lt.1 hhi)]
    split
    next hlo => rw [max_eq_left hlo.le]; rfl
    next hlo =>
      rw [max_eq_right (not_lt.1 hlo)]
      exact BitVec.toInt_ofInt_eq_self (by decide) (not_lt.1 hlo) (by omega)

/-- Settles O52: `nearestInt` is the nearest integer, and `clip16` saturates it. -/
theorem clip16RoundsAndSaturates : Obligations.Clip16RoundsAndSaturates := by
  unfold Obligations.Clip16RoundsAndSaturates
  refine ⟨fun x hx => if_pos hx, by decide, by decide, fun x hx => ?_⟩
  obtain ⟨hnear, heven⟩ := nearestInt_spec x
  exact ⟨nearestInt x, hnear, heven, clip16_toInt_of_finite hx⟩

end Sys2Proof.Machine
end

section
/-! SUPPORT. The error latch (R220-R226) and the runs of the machine (R236): what every command does to the latch, what
the lock leaves of a command, and that no step from a sound state stops. -/

namespace Sys2Proof.Machine

/-! The latch under a command (R220, R224). -/

/-- STATUS.ERR, ERR_CMD and ERR_INFO. -/
def State.latch (s : State) : BitVec 4 × Word × Word := (s.err, s.errCmd, s.errInfo)

/-- What a command's checks and effect may answer: an effect that leaves the latch alone, or an error with one of
`codes`. -/
def ResultOk (s : State) (codes : List (BitVec 4)) : Except CmdError State → Prop
  | .ok t => t.latch = s.latch
  | .error e => codes.contains (errorCode e) = true

section

variable {s : State} {codes : List (BitVec 4)} {c : Prop} [Decidable c] {e : CmdError} {r : Except CmdError State}

theorem ResultOk.check (he : codes.contains (errorCode e) = true) (hr : ResultOk s codes r) :
    ResultOk s codes (if c then .error e else r) := by
  split
  · exact he
  · exact hr

/-- The configuration check of R85 raises NOT_READY. -/
theorem ResultOk.configured (he : codes.contains 6#4 = true) (hr : ResultOk s codes r) :
    ResultOk s codes (if c then r else .error .notConfigured) := by
  split
  · exact hr
  · exact he

end

/-- Every command but ERR_CLR runs its checks and its effect behind the lock, and the checks raise only codes that R220
allows it. -/
theorem exec_eq_run_resultOk {i : Instr} (hi : i ≠ .errClr) (s : State) :
    ∃ r, exec i s = run s r ∧ ResultOk s (Spec.errorCodes i) r := by
  cases i with
  | errClr => exact absurd rfl hi
  | brVlc t =>
    refine ⟨_, rfl, .check rfl ?_⟩
    cases s.vlcMatch (s.vlcEntries t) (min (s.table t).maxlen.toNat (s.brLen.toNat - s.brPos.toNat)) with
    | some e => exact rfl
    | none => exact .check rfl rfl
  | nop | brTell => exact ⟨_, rfl, rfl⟩
  | brInit | brSkip | vlcBegin | remapSet => exact ⟨_, rfl, .check rfl rfl⟩
  | brRead | brPeek | vlcAdd | vlcEnd => exact ⟨_, rfl, .check rfl (.check rfl rfl)⟩
  | cfg => exact ⟨_, rfl, .check rfl (.check rfl (.check rfl rfl))⟩
  | outEmit => exact ⟨_, rfl, .configured rfl rfl⟩
  | mxIdent | mxRot | sfbSet | qsSet | coefClr => exact ⟨_, rfl, .configured rfl (.check rfl rfl)⟩
  | mxMs45 | mxWrite | mxAng | mxSigns | chQset | sfSet | prevSet | imdct | window | pcmZero =>
    exact ⟨_, rfl, .configured rfl (.check rfl (.check rfl rfl))⟩
  | grpSet | subSet | mxApply => exact ⟨_, rfl, .configured rfl (.check rfl (.check rfl (.check rfl rfl)))⟩
  | dequant => exact ⟨_, rfl, .configured rfl (.check rfl (.check rfl (.check rfl (.check rfl rfl))))⟩

/-- What a command does to the latch: nothing, or ERR_CLR clears it, or an error that R220 allows the command is latched
and nothing else is done (R224). -/
theorem exec_latch_cases {i : Instr} {s u : State} (h : exec i s = .next u) :
    u.latch = s.latch ∨ u.latch = (0, 0, 0) ∨
      (s.err = 0 ∧ ∃ e, errorCode e ∈ Spec.errorCodes i ∧ u = (s.raise e).complete) := by
  by_cases hi : i = .errClr
  · subst hi
    rw [execErrClr_cases h]
    exact .inr (.inl rfl)
  obtain ⟨r, hr, hok⟩ := exec_eq_run_resultOk hi s
  rw [hr] at h
  by_cases herr : s.err = 0
  · cases r with
    | ok t =>
      rw [run_ok herr] at h
      rw [← Host.Outcome.next.inj h]
      exact .inl hok
    | error e =>
      rw [run_error herr] at h
      exact .inr (.inr ⟨herr, e, List.contains_iff_mem.1 hok, (Host.Outcome.next.inj h).symm⟩)
  · rw [run_locked herr] at h
    rw [← Host.Outcome.next.inj h]
    exact .inl rfl

/-- A command that ends with an error which was not there has raised it. -/
theorem exec_raises {i : Instr} {s u : State} (herr : s.err = 0) (h : exec i s = .next u) (hu : u.err ≠ 0) :
    ∃ e, errorCode e ∈ Spec.errorCodes i ∧ u = (s.raise e).complete := by
  obtain hl | hl | ⟨-, hraised⟩ := exec_latch_cases h
  · exact absurd ((congrArg Prod.fst hl).trans herr) hu
  · exact absurd (congrArg Prod.fst hl) hu
  · exact hraised

/-- Settles O16: a command by `exec_raises`, a word that is no command by its two errors. -/
theorem errorsArePrecise : Obligations.ErrorsArePrecise := by
  unfold Obligations.ErrorsArePrecise
  intro s u early addr w rest hs herr hhost ha hw hstep hu
  rw [step_runWord hs hhost ha hw] at hstep
  cases hd : decode w with
  | ok i =>
    rw [runWord, hd] at hstep
    obtain ⟨e, hcode, rfl⟩ := exec_raises (s := Spec.issued s w rest) herr hstep hu
    exact ⟨errorCode e, errorInfo e, rfl, rfl, .inl ⟨i, rfl, hcode⟩⟩
  | error e =>
    have hno : ∀ i, (Except.error e : Except DecodeError Instr) ≠ .ok i := nofun
    cases e with
    | undefinedOpcode =>
      rw [runWord_undefinedOpcode (s := Spec.issued s w rest) herr hd] at hstep
      obtain rfl := Host.Outcome.next.inj hstep
      exact ⟨4, 1, rfl, rfl, .inr ⟨hno, rfl⟩⟩
    | reservedBits =>
      rw [runWord_reservedBits (s := Spec.issued s w rest) herr hd] at hstep
      obtain rfl := Host.Outcome.next.inj hstep
      exact ⟨4, 2, rfl, rfl, .inr ⟨hno, rfl⟩⟩

/-! The lock (R223). -/

/-- The row of ERR_CLR fixes every bit of the word (R84). -/
theorem decode_eq_errClr_iff (w : Word) : decode w = .ok .errClr ↔ w = 0x3D000000#32 := by
  have hmask : w &&& (Laws.TableWord.row .errClr).1 = w := BitVec.and_allOnes
  rw [decode_eq_ok_iff, hmask]
  exact and_iff_left rfl

/-- The lock drops every word but ERR_CLR's, commands or not. -/
theorem runWord_locked {s : State} {w : Word} (h : s.err ≠ 0) (hw : w ≠ 0x3D000000#32) :
    runWord w s = .next (Spec.finished s) := by
  rw [runWord]
  cases hd : decode w with
  | ok i =>
    refine exec_locked h fun hi => hw ((decode_eq_errClr_iff w).1 ?_)
    rw [hd, hi]
  | error e => exact run_locked h _

/-- Settles O15: the step runs the word, which the lock drops unless it is ERR_CLR's. -/
theorem errorLock : Obligations.ErrorLock := by
  unfold Obligations.ErrorLock
  intro s early addr w rest hs herr hhost ha hw
  rw [step_runWord hs hhost ha hw]
  refine ⟨runWord_locked (s := Spec.issued s w rest) herr, fun hclr => ?_⟩
  rw [runWord, (decode_eq_errClr_iff w).2 hclr]
  rfl

/-! No step stops (R236). -/

theorem sound_of_statusInv {s : State} (h : StatusInv s) : Spec.Sound s := by
  obtain ⟨hbusy, herr, -, htab⟩ := h
  exact ⟨hbusy, herr, htab⟩

theorem runWord_next (w : Word) (s : State) : ∃ u, runWord w s = .next u := by
  rw [runWord]
  cases decode w with
  | ok i => exact exec_next i s
  | error e => exact run_next s _

theorem issueCommand_next (w : Word) (rest : List HostOp) (s : State) : ∃ u, issueCommand w rest s = .next u := by
  rw [issueCommand]
  obtain ⟨iv, t⟩ := State.overlap rest .command (s.issue w)
  cases iv with
  | command => exact runWord_next w t
  | clearing => exact ⟨_, rfl⟩

theorem hostEvent_next (e : HostEvent) (rest : List HostOp) (s : State) : ∃ u, hostEvent e rest s = .next u := by
  cases e with
  | powerOnReset => exact ⟨_, rfl⟩
  | read addr => exact ⟨_, rfl⟩
  | write addr v =>
    rw [hostEvent]
    split_ifs
    · exact issueCommand_next v rest s
    · exact ⟨_, rfl⟩
    · exact ⟨_, rfl⟩

/-- The faults are raised on broken states alone, and nothing is refused. -/
theorem step_next {s : State} (hs : Spec.Sound s) : ∃ u, step s = .next u := by
  cases hhost : s.host with
  | nil => exact ⟨s, step_idle hs hhost⟩
  | cons op rest =>
    rw [step_of_host hs hhost]
    exact hostEvent_next op.event rest s

/-! Every step keeps the flags' invariant. -/

theorem State.busWrite_busy (s : State) (off : Nat) (v : Word) : (s.busWrite off v).busy = s.busy := by
  unfold State.busWrite
  split_ifs <;> rfl

theorem issueCommand_busy {w : Word} {rest : List HostOp} {s u : State} (h : issueCommand w rest s = .next u) :
    u.busy = false := by
  obtain ⟨iv, t, -, ⟨-, rfl⟩ | ⟨-, ⟨i, -, hx⟩ | ⟨e, -, hx⟩⟩⟩ := issueCommand_cases h
  · rfl
  · exact (exec_keeps_host hx).1
  · rw [(run_error_cases hx).eq_latched]
    rfl

/-- A step is a whole BUSY interval (R13). -/
theorem step_busy {s u : State} (hs : s.busy = false) (h : step s = .next u) : u.busy = false := by
  obtain ⟨-, ⟨-, rfl⟩ | ⟨op, rest, -, he⟩⟩ := step_cases h
  · exact hs
  obtain rfl | ⟨addr, rfl⟩ | ⟨off, v, rfl⟩ | ⟨w, hw⟩ := hostEvent_cases he
  · rfl
  · exact hs
  · exact (State.busWrite_busy _ off v).trans hs
  · exact issueCommand_busy hw

/-- The latch holds no reserved code (R220), and its registers are 0 while no error is latched (R28, R134). -/
def LatchOk (s : State) : Prop := s.err.toNat ≤ 6 ∧ (s.err = 0 → s.errCmd = 0 ∧ s.errInfo = 0)

/-- No table has STATE 3 (R38). -/
def TableStatesOk (s : State) : Prop := ∀ t, (s.table t).state ≠ 3

theorem statusInv_iff (s : State) : StatusInv s ↔ s.busy = false ∧ LatchOk s ∧ TableStatesOk s := by
  simp only [StatusInv, LatchOk, TableStatesOk, and_assoc]

theorem LatchOk.congr {s u : State} (hs : LatchOk s) (h : u.latch = s.latch) : LatchOk u := by
  simp only [State.latch, Prod.mk.injEq] at h
  obtain ⟨herr, hcmd, hinfo⟩ := h
  rwa [LatchOk, herr, hcmd, hinfo]

/-- The codes of R220 are 1 to 6. -/
theorem errorCode_range (e : CmdError) : errorCode e ≠ 0 ∧ (errorCode e).toNat ≤ 6 := by
  cases e <;> simp [errorCode]

theorem latchOk_raise (s : State) (e : CmdError) : LatchOk (s.raise e) := by
  obtain ⟨hne, hle⟩ := errorCode_range e
  exact ⟨hle, fun h => absurd h hne⟩

theorem LatchOk.exec {i : Instr} {s u : State} (hs : LatchOk s) (h : exec i s = .next u) : LatchOk u := by
  obtain hl | hl | ⟨-, e, -, rfl⟩ := exec_latch_cases h
  · exact hs.congr hl
  · exact LatchOk.congr (s := State.reset) ⟨by decide, fun _ => ⟨rfl, rfl⟩⟩ hl
  · exact latchOk_raise s e

/-- The states a command gives a table (R107-R109): the old one, BUILDING or VALID. -/
theorem exec_table_state_cases {i : Instr} {s u : State} (h : exec i s = .next u) (d : BitVec 4) :
    (u.table d).state = (s.table d).state ∨ (u.table d).state = 1 ∨ (u.table d).state = 2 := by
  have hended (hu : Ended s u) : (u.table d).state = (s.table d).state := by rw [hu.eq_latched]; rfl
  obtain ht | ⟨m, rfl⟩ | rfl | rfl := exec_table_cases h d
  · exact .inl (congrArg VlcStatus.state ht)
  · refine (execVlcBegin_cases h).imp hended fun ⟨_, _, _, hu⟩ => .inl ?_
    rw [table_eq_of_set (s := s) hu rfl]
  · refine .inl ((execVlcAdd_cases h).elim hended fun ⟨_, _, _, _, _, _, hu⟩ => ?_)
    rw [table_eq_of_set (s := s) hu rfl]
  · refine (execVlcEnd_cases h).imp hended fun ⟨_, _, _, _, hu⟩ => .inr ?_
    rw [table_eq_of_set (s := s) hu rfl]

theorem TableStatesOk.exec {i : Instr} {s u : State} (hs : TableStatesOk s) (h : exec i s = .next u) :
    TableStatesOk u := by
  intro d
  obtain hd | hd | hd := exec_table_state_cases h d <;> rw [hd]
  · exact hs d
  · decide
  · decide

theorem step_keeps_statusInv {s u : State} (hs : StatusInv s) (h : step s = .next u) : StatusInv u := by
  obtain ⟨hbusy, hflags⟩ := (statusInv_iff s).1 hs
  obtain ⟨-, hreset⟩ := (statusInv_iff _).1 reset_statusInv
  exact (statusInv_iff u).2 ⟨step_busy hbusy h, step_keeps (P := fun s => LatchOk s ∧ TableStatesOk s)
    (fun s u hp hu => by rw [hu]; exact hp) hreset (fun _ _ _ hp _ => hp)
    (fun s e ⟨_, htab⟩ => ⟨latchOk_raise s e, htab⟩)
    (fun _ _ _ ⟨hlatch, htab⟩ hx => ⟨hlatch.exec hx, htab.exec hx⟩) hflags h⟩

/-! Runs (R236). -/

theorem core_run_succ {s u : State} (h : step s = .next u) (k : Nat) :
    Sys2Proof.core.run (k + 1) s = Sys2Proof.core.run k u := by
  have hcore : Sys2Proof.core.step s = .next u := h
  simp only [Host.Core.run, hcore]

/-- The induction over runs: if every step from a state with `P` has a next state, with `P` again, then no run from such
a state stops. -/
theorem run_next_of_step {P : State → Prop} (hstep : ∀ s, P s → ∃ u, step s = .next u ∧ P u) (k : Nat) :
    ∀ s : State, P s → ∃ t : State, Sys2Proof.core.run k s = .next t ∧ P t := by
  induction k with
  | zero => exact fun s hs => ⟨s, rfl, hs⟩
  | succ k ih =>
    intro s hs
    obtain ⟨u, hu, hpu⟩ := hstep s hs
    obtain ⟨t, ht, hpt⟩ := ih u hpu
    exact ⟨t, (core_run_succ hu k).trans ht, hpt⟩

/-- Settles O11: from a state with the invariant a step has a next state, which has it again. -/
theorem runNeverStops : Obligations.RunNeverStops := by
  unfold Obligations.RunNeverStops
  refine fun k s => run_next_of_step (fun s hs => ?_) k s
  obtain ⟨u, hu⟩ := step_next (sound_of_statusInv hs)
  exact ⟨u, hu, step_keeps_statusInv hs hu⟩

end Sys2Proof.Machine
end

section
/-! SUPPORT. Any number of accesses inside a command's BUSY interval (R254, R256), and the map after reset (R251). -/

namespace Sys2Proof.Machine

/-! Accesses that leave the command running (R256). -/

/-- `u` is `s` but for what the host's accesses inside a command's interval can change. -/
def Accessed (s u : State) : Prop := u = s.withAccess u.haz u.ieDone u.ieErr u.reads

theorem accessed_withAccess (s : State) (haz ieDone ieErr : Bool) (reads : List (Word × Word)) :
    Accessed s (s.withAccess haz ieDone ieErr reads) := rfl

theorem Accessed.eq {s u : State} (h : Accessed s u) : u = s.withAccess u.haz u.ieDone u.ieErr u.reads := h

theorem Accessed.done_eq {s u : State} (h : Accessed s u) : u.done = s.done := (congrArg State.done h.eq :)

theorem Accessed.trans {s t u : State} (ht : Accessed s t) (hu : Accessed t u) : Accessed s u :=
  hu.eq.trans (congrArg (·.withAccess u.haz u.ieDone u.ieErr u.reads) ht.eq)

theorem Accessed.withHost {s u : State} (h : Accessed s u) (l : List HostOp) :
    Accessed { s with host := l } { u with host := l } :=
  (congrArg (fun t : State => { t with host := l }) h.eq :)

/-- A STATUS write clears DONE, which the issue of the command has cleared already (R24, R25). -/
theorem accessed_writeStatus {s : State} (hdone : s.done = false) (v : Word) : Accessed s (s.writeStatus v) := by
  have hkeep : (s.done && !v.getLsbD 1) = s.done := by rw [hdone]; rfl
  rw [State.writeStatus, hkeep]
  rfl

/-- Only a reset ends a command's interval early. -/
theorem busyEvent_accessed {s : State} {e : HostEvent} (hdone : s.done = false) (he : ¬Spec.IsReset e) :
    ∃ u, s.busyEvent .command e = (.command, u) ∧ Accessed s u := by
  cases e with
  | powerOnReset => exact absurd (.inl rfl) he
  | read a =>
    by_cases hstatus : busOffset a = 0x008
    · exact ⟨_, busyEvent_read_status hstatus, rfl⟩
    · by_cases hid : busOffset a = 0x000
      · exact ⟨_, busyEvent_read_id hid, rfl⟩
      · exact ⟨_, busyEvent_read_other hstatus hid, rfl⟩
  | write a v =>
    by_cases hctrl : busOffset a = 0x004
    · have hsrst : v.getLsbD 0 = false := Bool.eq_false_iff.2 fun hv => he (.inr ⟨a, v, rfl, hctrl, hv⟩)
      exact ⟨_, busyEvent_write_ctrl hctrl hsrst, rfl⟩
    · by_cases hstatus : busOffset a = 0x008
      · exact ⟨_, busyEvent_write_status hstatus, accessed_writeStatus hdone v⟩
      · exact ⟨_, busyEvent_write_other hctrl hstatus, rfl⟩

/-- Accesses other than resets leave the command in progress, and the rest of the host's program pending. -/
theorem overlap_accessed {rest : List HostOp} (hw : Spec.Waits rest) (inside : List HostOp)
    (hin : ∀ op ∈ inside, op.early = true ∧ ¬Spec.IsReset op.event) {s : State} (hdone : s.done = false) :
    ∃ u, State.overlap (inside ++ rest) .command s = (.command, u) ∧ Accessed { s with host := rest } u := by
  induction inside generalizing s with
  | nil => exact ⟨_, overlap_of_waits hw _ s, rfl⟩
  | cons op ops ih =>
    obtain ⟨⟨hearly, hreset⟩, hops⟩ := List.forall_mem_cons.1 hin
    obtain ⟨t, ht, hst⟩ := busyEvent_accessed hdone hreset
    obtain ⟨u, hu, htu⟩ := ih hops (hst.done_eq.trans hdone)
    refine ⟨u, ?_, (hst.withHost rest).trans htu⟩
    rw [List.cons_append, State.overlap, if_pos hearly, ht]
    exact hu

/-- Settles O7: the accesses change only what no command reads (`exec_withAccess`). -/
theorem commandUnaffectedByHostAccesses : Obligations.CommandUnaffectedByHostAccesses := by
  unfold Obligations.CommandUnaffectedByHostAccesses
  intro s early addr w inside rest i hs hhost ha hin hw hd
  obtain ⟨t, ht⟩ := exec_next i (Spec.issued s w rest)
  obtain ⟨v, hv, hacc⟩ := overlap_accessed hw inside hin (s := s.issue w) rfl
  refine ⟨t, t.withAccess v.haz v.ieDone v.ieErr v.reads, ht, ?_, accessed_withAccess ..⟩
  calc step s
    _ = issueCommand w (inside ++ rest) s := (step_of_host hs hhost).trans (hostEvent_cmd ha _ s)
    _ = exec i v := by simp only [issueCommand, hv, runWord, hd]
    _ = exec i ((Spec.issued s w rest).withAccess v.haz v.ieDone v.ieErr v.reads) := congrArg (exec i) hacc.eq
    _ = .next (t.withAccess v.haz v.ieDone v.ieErr v.reads) := exec_withAccess _ _ _ _ ht

/-! The map after reset (R251). -/

theorem getD_replicate_self {α : Type} (n i : Nat) (x : α) : (Vector.replicate n x).getD i x = x := by
  by_cases h : i < n <;> simp [Vector.getD, h]

theorem State.reset_readControl (off : Nat) : State.reset.readControl off =
    if off = 0x000 then 0x53313833#32 else if off = 0x04C then 0x00543210#32 else 0 := by
  by_cases hid : off = 0x000
  · rw [hid]; rfl
  · by_cases hremap : off = 0x04C
    · rw [hremap]; rfl
    · rw [if_neg hid, if_neg hremap]
      unfold State.readControl
      split <;> first | rfl | contradiction

theorem Channel.reset_readReg (off : Nat) : Channel.reset.readReg off = 0 := by
  unfold Channel.readReg
  split <;> rfl

theorem Group.reset_readReg (off : Nat) : Group.reset.readReg off = 0 := by
  unfold Group.readReg
  split <;> rfl

theorem State.reset_sfb_word (i : Nat) : (State.reset.sfb.getD i 0).setWidth 32 = 0 := by
  rw [State.reset, getD_replicate_self]; rfl

theorem Channel.reset_sf_word (i : Nat) : (Channel.reset.sf.getD i 0).signExtend 32 = 0 := by
  rw [Channel.reset, getD_replicate_self]; rfl

theorem Group.reset_ang_word (i : Nat) : (Group.reset.ang.getD i 0).setWidth 32 = 0 := by
  rw [Group.reset, getD_replicate_self]; rfl

theorem Group.reset_matGet (i j : Nat) : matGet Group.reset.mat i j = 0 := matGet_zero i j

theorem VlcStatus.reset_word : VlcStatus.reset.word = 0 := by decide

theorem State.reset_readWord (off : Nat) : readWord State.reset.mem off = 0 :=
  show bytesWord 0 0 0 0 = 0 by decide

/-- Past the control registers every window of the map reads 0. -/
theorem State.reset_busRead_of_ge {off : Nat} (h : 0x100 ≤ off) : State.reset.busRead off = 0 := by
  rw [State.busRead, if_neg (Nat.not_lt.2 h)]
  simp only [State.reset_channel, State.reset_group, State.reset_table, Channel.reset_readReg, Group.reset_readReg,
    State.reset_sfb_word, Channel.reset_sf_word, Group.reset_ang_word, Group.reset_matGet, VlcStatus.reset_word,
    State.reset_readWord, ite_self]

/-- Settles O10. -/
theorem resetBusValues : Obligations.ResetBusValues := by
  refine ⟨fun off => ?_, rfl⟩
  by_cases h : off < 0x100
  · rw [State.busRead, if_pos h, State.reset_readControl]
  · rw [State.reset_busRead_of_ge (by omega), if_neg (by omega), if_neg (by omega)]

end Sys2Proof.Machine
end
